-- ==== Sys2Proof/Config.lean ====
section
/-! DEFINITION. The implementation parameters of 00_scope.md R6, each one named constant (R8; log entry 17), the
command, response and event codes of 30_encoding.md R75, R82 and R83, and the free values: constants without a body
for what the spec leaves unspecified. -/

namespace Sys2Proof.Config

/-! ### Widths (R6, R23) -/

/-- `ACC_W`, the checksum accumulator's width (R6). -/
@[simp] abbrev accW : Nat := 16
/-- `LEN_W`, the data-length field's width (R6). -/
@[simp] abbrev lenW : Nat := 16
/-- `OPT_W`, the optional-data-length field's width (R6). -/
@[simp] abbrev optW : Nat := 8
/-- `TYPE_W`, the packet type's width (R6). -/
@[simp] abbrev typeW : Nat := 8
/-- The width of the working register TOTAL (R23). -/
@[simp] abbrev totalW : Nat := 17

/-! ### Frame and buffer parameters (R6)

A literal that the source states once stands here once. A parameter that R6 or R7 ties to another is computed from it,
so that an audit that changes one literal (R8) changes every rule that rests on it and keeps the relations of R7. -/

/-- `SYNC`, the byte that opens every frame. -/
abbrev sync : BitVec 8 := 0x55
/-- `HDR_LEN`, the header bytes after the sync byte. -/
@[simp] abbrev hdrLen : Nat := 4
/-- `HCK_OFF` = 1 + `HDR_LEN` = 5, the offset of the header checksum byte (R6, R7). -/
abbrev hckOff : Nat := 1 + hdrLen
/-- `DATA_OFF` = `HCK_OFF` + 1 = 6, the offset of the first data byte (R6, R7). -/
abbrev dataOff : Nat := hckOff + 1
/-- `MIN_FRAME` = `DATA_OFF` + 1 = 7, the fewest bytes the RX loop needs before it reads a header (R6, R7). -/
abbrev minFrame : Nat := dataOff + 1
/-- `WATERMARK`, the overflow valve's threshold. -/
@[simp] abbrev watermark : Nat := 100
/-- The source's spelling of `CK_XOR` before the shift (R6, R7). -/
abbrev ckXorBase : BitVec accW := 0x1070
/-- The source's shift of `ckXorBase` (R6, R8). -/
@[simp] abbrev ckXorShift : Nat := 3
/-- `CK_XOR` = `0x1070` shifted left by 3 = `0x8380`, the constant XORed into the accumulator (R6, R7). -/
abbrev ckXor : BitVec accW := ckXorBase <<< ckXorShift
/-- How far an input byte is shifted into the accumulator, and how many bits a byte has (R8's literal 8). -/
@[simp] abbrev ckShift : Nat := 8
/-- The iterations of the bit-serial checksum for one byte (R8's literal 8, R100). -/
@[simp] abbrev ckIterations : Nat := 8
/-- `MAX_DATA` = 2^LEN_W - 1 = 65535, the longest data (R6). -/
abbrev maxData : Nat := 2 ^ lenW - 1
/-- `MAX_OPT` = 2^OPT_W - 1 = 255, the longest optional data (R6). -/
abbrev maxOpt : Nat := 2 ^ optW - 1
/-- `MAX_FRAME` = `MIN_FRAME` + `MAX_DATA` + `MAX_OPT` = 65797, the longest frame (R6, R7). -/
abbrev maxFrame : Nat := minFrame + maxData + maxOpt
/-- `BUF_CAP` = `MAX_FRAME` = 65797, the storage of the reassembly buffer (R6; 20_memory.md R62; 92_eei_decisions.md
D6). -/
abbrev bufCap : Nat := maxFrame

/-! ### CMD opcodes (R75) -/

/-- Opcode of RXB. -/
abbrev opRxb : BitVec 8 := 0x01
/-- Opcode of EOC. -/
abbrev opEoc : BitVec 8 := 0x02
/-- Opcode of TXF. -/
abbrev opTxf : BitVec 8 := 0x03
/-- Opcode of CKS. -/
abbrev opCks : BitVec 8 := 0x04

/-! ### RSP codes (R82) -/

/-- First byte of OK and of OK with a value. -/
abbrev rspOk : BitVec 8 := 0x00
/-- First byte of ERR_ENCODE. -/
abbrev rspErrEncode : BitVec 8 := 0x01
/-- The one byte of ERR_BADCMD. -/
abbrev rspErrBadCmd : BitVec 8 := 0x02

/-! ### EVT codes (R83) -/

/-- Code of UNEXP. -/
abbrev evUnexp : BitVec 8 := 0x01
/-- Code of HDRBAD. -/
abbrev evHdrBad : BitVec 8 := 0x02
/-- Code of PAYBAD. -/
abbrev evPayBad : BitVec 8 := 0x03
/-- Code of OVFL. -/
abbrev evOvfl : BitVec 8 := 0x04
/-- Code of PKT. -/
abbrev evPkt : BitVec 8 := 0x10

/-! ### Free values

A working register's content between actions is unspecified (R24; 93_implementation_defined.md I9, "any value"):
after each action it is one of these constants applied to a counter of State (log entry 3). -/

/-- The unspecified content of ACC. -/
opaque freeAcc : Nat → BitVec accW
/-- The unspecified content of LEN. -/
opaque freeLen : Nat → BitVec lenW
/-- The unspecified content of OPT. -/
opaque freeOpt : Nat → BitVec optW
/-- The unspecified content of PTYPE. -/
opaque freePtype : Nat → BitVec typeW
/-- The unspecified content of TOTAL. -/
opaque freeTotal : Nat → BitVec totalW
/-- The unspecified content of HCK. -/
opaque freeHck : Nat → BitVec 8
/-- The unspecified content of PCK. -/
opaque freePck : Nat → BitVec 8

/-- What a read at an offset outside a byte sequence answers; the spec says that it never occurs (R52; log
entry 12). -/
opaque freeByte : Nat → BitVec 8

end Sys2Proof.Config
end

