-- ==== Sys2Proof/Word.lean ====
section
/-! DEFINITION. The words of the block: bytes, the working registers' widths (10_state.md R23), and byte sequences
(00_scope.md R9, R10). -/

namespace Sys2Proof

/-- An unsigned 8-bit value (R9). -/
abbrev Byte := BitVec 8

/-- The checksum accumulator's word (R23). -/
abbrev Acc := BitVec Config.accW

/-- The data length's word (R23). -/
abbrev Len := BitVec Config.lenW

/-- The optional-data length's word (R23). -/
abbrev Opt := BitVec Config.optW

/-- The packet type's word (R23). -/
abbrev PType := BitVec Config.typeW

/-- The frame length's word (R23). -/
abbrev Total := BitVec Config.totalW

end Sys2Proof
end

