-- ==== Sys2Proof/Syntax.lean ====
section
/-! DEFINITION. The instructions: one constructor for each row of spec/opcode_table.json (00_scope.md R2), and the
moves a host makes at the block's inputs (10_state.md R30, R31, R35). -/

namespace Sys2Proof

/-- A packet, the message value of 41_frame_codec.md R120. -/
structure Packet where
  ptype : PType
  data  : List Byte
  opt   : List Byte
deriving DecidableEq, Repr

/-- The rows of the opcode table: the host's commands, the reset input, the pseudo-instruction FEED, the two internal
functions and the seven RX actions (00_scope.md R2). -/
inductive Instr where
  /-- RXB b: receive one byte (R151). -/
  | rxb (b : Byte)
  /-- EOC: end of chunk (R152). -/
  | eoc
  /-- TXF: encode and transmit one frame (R122). The counts d and o of its transfer are the lists' lengths (R78). -/
  | txf (t : PType) (data opt : List Byte)
  /-- CKS: the checksum of the input (R108). The count n of its transfer is the list's length (R79). -/
  | cks (input : List Byte)
  /-- A transfer with a reserved opcode or of the wrong length (R80). -/
  | reserved (transfer : List Byte)
  /-- RST: the reset input, asserted between commands (R210). -/
  | rst
  /-- FEED: one chunk, the pseudo-instruction of R87. -/
  | feed (chunk : List Byte)
  /-- CHECKSUM: the internal function of R100. -/
  | checksum (input : List Byte)
  /-- DECODE: the internal function of R125. -/
  | decode (frame : List Byte)
  /-- RX_DISCARD (R143). -/
  | rxDiscard
  /-- RX_WAIT_HEADER (R144). -/
  | rxWaitHeader
  /-- RX_HDR_SLIP (R145). -/
  | rxHdrSlip
  /-- RX_WAIT_PAYLOAD (R146). -/
  | rxWaitPayload
  /-- RX_DELIVER (R147). -/
  | rxDeliver
  /-- RX_DROP_FRAME (R148). -/
  | rxDropFrame
  /-- RX_VALVE (R149). -/
  | rxValve
deriving DecidableEq, Repr

/-- What a host can do to the block between two commands: one CMD transfer, or one assertion of RST (R30, R31,
R35). -/
inductive HostMove where
  /-- One CMD transfer: its bytes in transfer order (R75). -/
  | transfer (bytes : List Byte)
  /-- RST asserted (R35). -/
  | rst
deriving DecidableEq, Repr

end Sys2Proof
end

