-- ==== Sys2Proof/WellFormed.lean ====
section
/-! DEFINITION. The instruction terms that a transfer can carry: the widths of the count fields of 30_encoding.md R75,
and for the (reserved) row that its bytes are indeed a transfer of R80. -/

namespace Sys2Proof

/-- The value of a byte sequence read as one big-endian unsigned number (R75, R57). -/
def bigEndian (bytes : List Byte) : Nat :=
  bytes.foldl (fun acc b => acc * 256 + b.toNat) 0

/-- The transfers of R80: an empty one, one with a reserved opcode, and one whose length is not what its opcode's
fields require (the column 'transfer length' of R75). -/
def badTransfer (t : List Byte) : Bool :=
  match t.head? with
  | none => true
  | some op =>
    if op = Config.opRxb then t.length ≠ 2
    else if op = Config.opEoc then t.length ≠ 1
    else if op = Config.opTxf then
      t.length < 8 ∨ t.length ≠ 8 + bigEndian ((t.drop 2).take 4) + bigEndian ((t.drop 6).take 2)
    else if op = Config.opCks then t.length < 5 ∨ t.length ≠ 5 + bigEndian ((t.drop 1).take 4)
    else true

/-- An instruction that some host move (or, for an internal row, some call) can carry: the data count fits 32 bits,
the optional count 16 bits, the CKS count 32 bits (R75), and a (reserved) transfer is one of R80. -/
def wellFormed : Instr → Bool
  | .rxb _ => true
  | .eoc => true
  | .txf _ data opt => data.length < 2 ^ 32 ∧ opt.length < 2 ^ 16
  | .cks input => input.length < 2 ^ 32
  | .reserved t => badTransfer t
  | .rst => true
  | .feed _ => true
  | .checksum _ => true
  | .decode _ => true
  | .rxDiscard => true
  | .rxWaitHeader => true
  | .rxHdrSlip => true
  | .rxWaitPayload => true
  | .rxDeliver => true
  | .rxDropFrame => true
  | .rxValve => true

end Sys2Proof
end

