-- ==== Sys2Proof/Decode.lean ====
section
/-! DEFINITION. The CMD decoder of 30_encoding.md R75 to R81, total on every byte sequence, and after it the encoder
written from the same table. Also the byte-order helpers of R57 that the frame fields use. -/

namespace Sys2Proof

/-! ### Byte order (R57) -/

/-- Two bytes, high byte first, as one 16-bit value (R57, R71, R78). -/
def be16 (hi lo : Byte) : BitVec 16 :=
  (hi.setWidth 16 <<< 8) ||| lo.setWidth 16

/-- Four bytes, most significant first, as one 32-bit value (R78, R79). -/
def be32 (b3 b2 b1 b0 : Byte) : BitVec 32 :=
  (b3.setWidth 32 <<< 24) ||| (b2.setWidth 32 <<< 16) ||| (b1.setWidth 32 <<< 8) ||| b0.setWidth 32

/-- The bytes of a 16-bit value, high byte first (R57, R70). -/
def bytes16 (v : BitVec 16) : List Byte :=
  [(v >>> 8).setWidth 8, v.setWidth 8]

/-- The bytes of a 32-bit value, most significant first (R75, R83). -/
def bytes32 (v : BitVec 32) : List Byte :=
  [(v >>> 24).setWidth 8, (v >>> 16).setWidth 8, (v >>> 8).setWidth 8, v.setWidth 8]

/-- `s[a:b)`, the subsequence of offsets a to b-1, empty when b ≤ a (R10). -/
def slice (s : List Byte) (a b : Nat) : List Byte :=
  (s.drop a).take (b - a)

/-! ### The decoder -/

/-- The operands of TXF, `args` being the transfer after its opcode (R78); a transfer of the wrong length is of the
(reserved) row (R80). -/
def decodeTxf (t args : List Byte) : Instr :=
  match args with
  | ty :: d3 :: d2 :: d1 :: d0 :: o1 :: o0 :: body =>
    let d := (be32 d3 d2 d1 d0).toNat
    let o := (be16 o1 o0).toNat
    if body.length = d + o then .txf ty (slice body 0 d) (slice body d (d + o)) else .reserved t
  | _ => .reserved t

/-- The operand of CKS, `args` being the transfer after its opcode (R79, R80). -/
def decodeCks (t args : List Byte) : Instr :=
  match args with
  | n3 :: n2 :: n1 :: n0 :: body =>
    if body.length = (be32 n3 n2 n1 n0).toNat then .cks body else .reserved t
  | _ => .reserved t

/-- CMD decoding (R81): the first byte selects the row of R75, and the length check of R80 accepts the transfer or
rejects it under the name of the (reserved) row. -/
def decode (t : List Byte) : Instr :=
  match t with
  | [] => .reserved t
  | op :: args =>
    if op = Config.opRxb then
      match args with
      | [b] => .rxb b
      | _ => .reserved t
    else if op = Config.opEoc then
      match args with
      | [] => .eoc
      | _ => .reserved t
    else if op = Config.opTxf then decodeTxf t args
    else if op = Config.opCks then decodeCks t args
    else .reserved t

/-- The instruction a host move asks for: a transfer's by R81, the reset input's RST (R35). -/
def decodeMove : HostMove → Instr
  | .transfer t => decode t
  | .rst => .rst

/-! ### The encoder -/

/-- The TXF transfer of R75, its counts taken from the lists' lengths. -/
def encodeTxf (t : PType) (data opt : List Byte) : List Byte :=
  Config.opTxf :: t :: bytes32 (BitVec.ofNat 32 data.length) ++ bytes16 (BitVec.ofNat 16 opt.length) ++ data ++ opt

/-- The CKS transfer of R75, its count taken from the list's length. -/
def encodeCks (input : List Byte) : List Byte :=
  Config.opCks :: bytes32 (BitVec.ofNat 32 input.length) ++ input

/-- The host moves of an instruction (R75, R87): one transfer for a command, RST for the reset input, the expansion
for FEED, and none for the internal functions and the RX actions, which have no encoding (R88, R89). -/
def encode : Instr → List HostMove
  | .rxb b => [.transfer [Config.opRxb, b]]
  | .eoc => [.transfer [Config.opEoc]]
  | .txf t data opt => [.transfer (encodeTxf t data opt)]
  | .cks input => [.transfer (encodeCks input)]
  | .reserved t => [.transfer t]
  | .rst => [.rst]
  | .feed chunk => chunk.map (fun b => HostMove.transfer [Config.opRxb, b]) ++ [.transfer [Config.opEoc]]
  | .checksum _ => []
  | .decode _ => []
  | .rxDiscard => []
  | .rxWaitHeader => []
  | .rxHdrSlip => []
  | .rxWaitPayload => []
  | .rxDeliver => []
  | .rxDropFrame => []
  | .rxValve => []

/-! ### The opcode table's numbering -/

/-- The first `k` bytes of the number `w`, the least significant one first in the transfer. -/
def bytesOf : Nat → Nat → List Byte
  | 0, _ => []
  | k + 1, w => BitVec.ofNat 8 w :: bytesOf k (w / 256)

/-- How many bytes a transfer that begins with `t` has, the bytes it does not show being zero (the column 'transfer
length' of R75); for a reserved opcode, as many as it shows. -/
def transferLength (t : List Byte) : Nat :=
  match t ++ List.replicate 8 0 with
  | op :: a1 :: a2 :: a3 :: a4 :: a5 :: a6 :: a7 :: _ =>
    if op = Config.opRxb then 2
    else if op = Config.opEoc then 1
    else if op = Config.opTxf then 8 + (be32 a2 a3 a4 a5).toNat + (be16 a6 a7).toNat
    else if op = Config.opCks then 5 + (be32 a1 a2 a3 a4).toNat
    else t.length
  | _ => t.length

/-- The transfer whose first `nbits` bits are those of `w` as spec/opcode_table.json numbers them, and whose other
bytes, up to the length its opcode's fields require, are zero (log entry 18). -/
def tableTransfer (nbits w : Nat) : List Byte :=
  let t := bytesOf ((nbits + 7) / 8) (w % 2 ^ nbits)
  t ++ List.replicate (transferLength t - t.length) 0

/-- What the decoder reads from the opcode table's word `w` of `nbits` bits. -/
def decodeTableWord (nbits w : Nat) : Option Instr :=
  some (decode (tableTransfer nbits w))

end Sys2Proof
end

