-- ==== Sys2Proof/Machine/State.lean ====
section
/-! DEFINITION. The block's state as plain data (10_state.md), its outputs, the reasons a step can stop, and the state
after reset (70_reset_and_hazards.md R211, R213). -/

namespace Sys2Proof.Machine

/-- The reassembly buffer RB: a finite sequence of bytes, offset 0 the oldest (R21, R51; log entry 14). -/
abbrev Buffer := List Byte

/-- The working registers of R23. They hold a meaningful value only inside the action that wrote them (R24; log
entry 3). -/
structure WorkRegs where
  acc   : Acc
  len   : Len
  opt   : Opt
  ptype : PType
  total : Total
  hck   : Byte
  pck   : Byte
deriving DecidableEq, Repr

/-- One output transfer, tagged with the port it leaves on (R30; 30_encoding.md R82 to R84). -/
inductive Output where
  /-- A response on RSP (R32). -/
  | rsp (transfer : List Byte)
  /-- An event on EVT (R33). -/
  | evt (transfer : List Byte)
  /-- A frame on TXD (R34). -/
  | txd (transfer : List Byte)
deriving DecidableEq, Repr

/-- The responses of 30_encoding.md R82. -/
inductive Response where
  | ok
  | okValue (v : Byte)
  | errEncode (flags : Byte)
  | errBadCmd
deriving DecidableEq, Repr

/-- The events of 30_encoding.md R83, with the values each one records. -/
inductive Event where
  /-- UNEXP: the discarded byte (R143). -/
  | unexp (b : Byte)
  /-- HDRBAD: the four header bytes, the received and the computed header checksum (R145). -/
  | hdrBad (h1 h2 h3 h4 rx ck : Byte)
  /-- PAYBAD: type, LEN, OPT, the received and the computed payload checksum (R148). -/
  | payBad (t : Byte) (len : Len) (opt : Opt) (rx ck : Byte)
  /-- OVFL: the number of bytes flushed (R149). -/
  | ovfl (n : Nat)
  /-- PKT: a delivered packet (R147). -/
  | pkt (p : Packet)
deriving DecidableEq, Repr

/-- What an internal function has returned to its caller (log entry 6). -/
inductive Ret where
  | none
  /-- The result of CHECKSUM (R100). -/
  | byte (v : Byte)
  /-- The result of DECODE (R125). -/
  | packet (p : Packet)
deriving DecidableEq, Repr

/-- The actions RX_SELECT chooses among (42_stream_decoder.md R142). -/
inductive RxAction where
  | discard
  | waitHeader
  | hdrSlip
  | waitPayload
  | deliver
  | dropFrame
deriving DecidableEq, Repr

/-- The conceptual phases of R26. A phase is a function of RB and is never stored. -/
inductive Phase where
  | seeking
  | headerPending
  | headerReject
  | headerValidated
  | dispatch
deriving DecidableEq, Repr

/-- Everything the spec gives the block: its one persistent storage RB (R20), the working registers (R23) and the
output traces (R37); and the model's own fields (INVENTORY.md, State). -/
structure State where
  /-- RB, the reassembly buffer (R21). -/
  rb        : Buffer
  /-- The working registers (R23). -/
  wr        : WorkRegs
  /-- Every transfer emitted so far on RSP, EVT and TXD, oldest first (R37, R64; log entry 5). -/
  out       : List Output
  /-- The host's moves still to come, oldest first (R31; log entry 1). -/
  pending   : List HostMove
  /-- What CHECKSUM or DECODE, run on its own, returned (log entry 6). -/
  ret       : Ret
  /-- How many times the working registers have become unspecified (R24; log entry 3). -/
  freeCount : Nat
deriving DecidableEq, Repr

/-- The one way a step can fault. The spec has no fault (60_exceptions.md R180); no state that a run reaches takes
this one (20_memory.md R62). -/
inductive Fault where
  /-- Raised by RXB (and by FEED, which expands to RXBs) when RB already holds `BUF_CAP` bytes: the precondition of
  BufAppend is broken and the spec gives it no effect (R53). Safe: the model stops (log entry 7). -/
  | bufferFull
deriving DecidableEq, Repr

/-- Why an instruction is refused. -/
inductive Refusal where
  /-- Raised by exec's arm of an instruction that has no meaning yet. Safe: nothing is claimed of it. -/
  | notModelled (mnemonic : String)
  /-- Raised by DECODE on a sequence that is not a valid frame, to which the spec gives no behaviour (R126;
  93_implementation_defined.md I3). Safe (log entry 11). -/
  | notAValidFrame
  /-- Raised by an RX action run on its own on an RB for which RX_SELECT picks another action (R142). Safe: the
  block never performs it there (log entry 9). -/
  | actionNotSelected
deriving DecidableEq, Repr

/-- The working registers' values at reset: the spec says unspecified (R211); zero is the model's choice (DESIGN
CHOICE, unsafe: log entry 4). -/
def WorkRegs.reset : WorkRegs :=
  { acc := 0, len := 0, opt := 0, ptype := 0, total := 0, hck := 0, pck := 0 }

/-- The state at power-on: RB empty and nothing emitted (R211, R213); no host move pending. -/
def State.reset : State :=
  { rb := [], wr := WorkRegs.reset, out := [], pending := [], ret := .none, freeCount := 0 }

end Sys2Proof.Machine
end

