-- ==== Sys2Proof/Machine/Ops.lean ====
section
/-! DEFINITION. The named operations over the state: the buffer primitives of 20_memory.md R52 to R56, emission on
the three output ports with the encodings of 30_encoding.md R82 to R84, and the release of the working registers at
the end of an action (10_state.md R24).

TAKING AN EXCEPTION has no operation here, because the block has none: no condition saves state, changes a mode or
redirects control, and there is no return from one (60_exceptions.md R180, R192, R193). A condition is an event or a
response, emitted by the operations below. -/

namespace Sys2Proof.Machine

/-! ### The buffer primitives (R52 to R56) -/

/-- The byte at offset `i` of a sequence (R10); outside it, which the spec says never occurs (R52), a free value (log
entry 12). -/
def readAt (s : List Byte) (i : Nat) : Byte :=
  s[i]?.getD (Config.freeByte i)

/-- BufLen() (R52). -/
abbrev bufLen (rb : Buffer) : Nat := rb.length

/-- BufRead(i) (R52). -/
abbrev bufRead (rb : Buffer) (i : Nat) : Byte := readAt rb i

/-- BufSlice(a, b) (R56). -/
abbrev bufSlice (rb : Buffer) (a b : Nat) : List Byte := slice rb a b

/-- The precondition of BufAppend (R53). -/
def bufHasRoom (rb : Buffer) : Bool := bufLen rb < Config.bufCap

/-- BufAppend(b) where its precondition holds (R53). -/
def bufAppend (b : Byte) (s : State) : State := { s with rb := s.rb ++ [b] }

/-- BufDrop(k) (R54). -/
def bufDrop (k : Nat) (s : State) : State := { s with rb := s.rb.drop k }

/-- BufClear() (R55). -/
def bufClear (s : State) : State := { s with rb := [] }

/-! ### The output ports -/

/-- The bytes of a response (R82). -/
def responseBytes : Response → List Byte
  | .ok => [Config.rspOk]
  | .okValue v => [Config.rspOk, v]
  | .errEncode flags => [Config.rspErrEncode, flags]
  | .errBadCmd => [Config.rspErrBadCmd]

/-- The bytes of an event (R83). The length fields of PKT are the packet's own lengths, and the count of OVFL is
written in 32 bits (log entry 19). -/
def eventBytes : Event → List Byte
  | .unexp b => [Config.evUnexp, b]
  | .hdrBad h1 h2 h3 h4 rx ck => [Config.evHdrBad, h1, h2, h3, h4, rx, ck]
  | .payBad t len opt rx ck => Config.evPayBad :: t :: bytes16 len ++ [opt, rx, ck]
  | .ovfl n => Config.evOvfl :: bytes32 (BitVec.ofNat 32 n)
  | .pkt p =>
    Config.evPkt :: p.ptype :: bytes16 (BitVec.ofNat 16 p.data.length) ++ BitVec.ofNat 8 p.opt.length :: p.data ++ p.opt

/-- One more transfer at the end of the outputs; the ports always accept (R36; log entry 16). -/
def emit (o : Output) (s : State) : State := { s with out := s.out ++ [o] }

/-- Emit(EVT, e) (R11, R33). -/
def emitEvt (e : Event) (s : State) : State := emit (.evt (eventBytes e)) s

/-- Emit(TXD, s) (R11, R34). -/
def emitTxd (frame : List Byte) (s : State) : State := emit (.txd frame) s

/-- Respond(r) (R11, R32). -/
def respond (r : Response) (s : State) : State := emit (.rsp (responseBytes r)) s

/-- The transfer of an RSP output. -/
def rspOf : Output → Option (List Byte)
  | .rsp t => some t
  | .evt _ => none
  | .txd _ => none

/-- The transfer of an EVT output. -/
def evtOf : Output → Option (List Byte)
  | .rsp _ => none
  | .evt t => some t
  | .txd _ => none

/-- The transfer of a TXD output. -/
def txdOf : Output → Option (List Byte)
  | .rsp _ => none
  | .evt _ => none
  | .txd t => some t

/-- The RSP trace of R37: what the host has seen on RSP, in order. -/
def rspTrace (s : State) : List (List Byte) := s.out.filterMap rspOf

/-- The EVT trace of R37. -/
def evtTrace (s : State) : List (List Byte) := s.out.filterMap evtOf

/-- The TXD trace of R37. -/
def txdTrace (s : State) : List (List Byte) := s.out.filterMap txdOf

/-! ### The working registers between actions (R24) -/

/-- The unspecified contents of the working registers, drawn for the `n`-th time. -/
def freeRegs (n : Nat) : WorkRegs :=
  { acc := Config.freeAcc n, len := Config.freeLen n, opt := Config.freeOpt n, ptype := Config.freePtype n,
    total := Config.freeTotal n, hck := Config.freeHck n, pck := Config.freePck n }

/-- The end of an action: the working registers no longer hold a meaningful value (R24; log entry 3). -/
def release (s : State) : State := { s with wr := freeRegs s.freeCount, freeCount := s.freeCount + 1 }

end Sys2Proof.Machine
end

