-- ==== Sys2Proof/Machine/Control.lean ====
section
/-! DEFINITION. The (reserved) row of the command decoder (30_encoding.md R80; 60_exceptions.md R187) and the reset
input (70_reset_and_hazards.md R210). -/

namespace Sys2Proof.Machine

/-- A reserved opcode or a malformed transfer: the response ERR_BADCMD and no other effect, whatever the transfer's
bytes are (R80, R187). -/
def execReserved (_transfer : List Byte) (s : State) : Host.Outcome State Fault Refusal :=
  .next (respond .errBadCmd s)

/-- RST: RB becomes empty, nothing is emitted, and earlier outputs stay in place (R210). The working registers are
unspecified after it (R211; log entry 22). -/
def execRst (s : State) : Host.Outcome State Fault Refusal :=
  .next (release { bufClear s with ret := .none })

end Sys2Proof.Machine
end

