-- ==== Sys2Proof/Machine/Flags.lean ====
section
/-! DEFINITION. The block has no architectural flags (10_state.md R28). The only flag bits it computes are those of the
ERR_ENCODE response (30_encoding.md R82; 41_frame_codec.md R122, R123). -/

namespace Sys2Proof.Machine

/-- Bit 0 of ERR_ENCODE's flags: the data count is over `MAX_DATA` (R82, R123). -/
def dataTooLong (d : Nat) : Bool := Config.maxData < d

/-- Bit 1 of ERR_ENCODE's flags: the optional-data count is over `MAX_OPT` (R82, R123). -/
def optTooLong (o : Nat) : Bool := Config.maxOpt < o

/-- The flags of R122; bits 7:2 are 0 (R82). Both bits are set when both conditions hold (R123). -/
def encodeFlags (d o : Nat) : Byte :=
  (if dataTooLong d then 0x01 else 0x00) ||| (if optTooLong o then 0x02 else 0x00)

end Sys2Proof.Machine
end

