-- ==== Sys2Proof/Machine/Checksum.lean ====
section
/-! DEFINITION. The checksum-8 unit (40_checksum.md): the bit-serial form of R100, which is the machine's, the
byte-wise form of R102 and the unmasked form of R101, and the two instructions over it, CHECKSUM and CKS. -/

namespace Sys2Proof.Machine

/-! ### The bit-serial form (R100) -/

/-- One of the eight iterations: the XOR, when bit 15 is set, comes before the shift, and the shift discards what
leaves bit 15 (R100). -/
def ckBit (acc : Acc) : Acc :=
  (if acc.getLsbD (Config.accW - 1) then acc ^^^ Config.ckXor else acc) <<< 1

/-- `n` iterations of `ckBit`. -/
def ckBits : Nat → Acc → Acc
  | 0, acc => acc
  | n + 1, acc => ckBits n (ckBit acc)

/-- One input byte: XORed into the accumulator's high byte, then the eight iterations (R100, R58). -/
def ckByte (acc : Acc) (b : Byte) : Acc :=
  ckBits Config.ckIterations (acc ^^^ (b.setWidth Config.accW <<< Config.ckShift))

/-- The accumulator after the bytes of `s`, in sequence order, from 0 (R100). -/
def checksumAcc (s : List Byte) : Acc := s.foldl ckByte 0

/-- ACC[15:8], the result of CHECKSUM (R100). -/
def accHigh (acc : Acc) : Byte := (acc >>> Config.ckShift).setWidth 8

/-- CHECKSUM(s) (R100). -/
def checksum (s : List Byte) : Byte := accHigh (checksumAcc s)

/-! ### The byte-wise form (R102) -/

/-- One of the eight iterations of CHECKSUM8 (R102). -/
def ck8Bit (c : Byte) : Byte :=
  if c.getLsbD 7 then (c <<< 1) ^^^ 0x07 else c <<< 1

/-- `n` iterations of `ck8Bit`. -/
def ck8Bits : Nat → Byte → Byte
  | 0, c => c
  | n + 1, c => ck8Bits n (ck8Bit c)

/-- CHECKSUM8(s) (R102). -/
def checksum8 (s : List Byte) : Byte :=
  s.foldl (fun c b => ck8Bits Config.ckIterations (c ^^^ b)) 0

/-! ### The unmasked form (R101) -/

/-- One of the eight iterations on an accumulator of unbounded width that is never masked (R101). -/
def ckWideBit (acc : Nat) : Nat :=
  (if acc.testBit (Config.accW - 1) then acc ^^^ Config.ckXor.toNat else acc) <<< 1

/-- `n` iterations of `ckWideBit`. -/
def ckWideBits : Nat → Nat → Nat
  | 0, acc => acc
  | n + 1, acc => ckWideBits n (ckWideBit acc)

/-- The checksum over an accumulator that is never masked, its bits 15..8 read at the end (R101). -/
def checksumWide (s : List Byte) : Byte :=
  BitVec.ofNat 8
    (s.foldl (fun acc b => ckWideBits Config.ckIterations (acc ^^^ (b.toNat <<< Config.ckShift))) 0 >>> Config.ckShift)

/-! ### The instructions -/

/-- The working registers after CHECKSUM(s): ACC is the accumulator (R23, R100). -/
def checksumRegs (s : List Byte) (w : WorkRegs) : WorkRegs := { w with acc := checksumAcc s }

/-- CHECKSUM, the internal function run on its own: it writes ACC and returns ACC[15:8] (R100; log entry 6). -/
def execChecksum (input : List Byte) (s : State) : Host.Outcome State Fault Refusal :=
  let w := checksumRegs input s.wr
  .next { s with wr := w, ret := .byte (accHigh w.acc) }

/-- CKS: the response OK with CHECKSUM(input); RB, EVT and TXD are untouched (R108). -/
def execCks (input : List Byte) (s : State) : Host.Outcome State Fault Refusal :=
  let w := checksumRegs input s.wr
  .next (release (respond (.okValue (accHigh w.acc)) { s with wr := w }))

end Sys2Proof.Machine
end

