-- ==== Sys2Proof/Machine/Operands.lean ====
section
/-! DEFINITION. The operands a frame carries: field extraction (30_encoding.md R70 to R72), the two checks of the
checksum-8 validator (40_checksum.md R105, R106), and the valid frame (30_encoding.md R73). -/

namespace Sys2Proof.Machine

/-- LEN = (s[1] << 8) | s[2] (R71, R57). -/
def lenField (s : List Byte) : Len := be16 (readAt s 1) (readAt s 2)

/-- OPT = s[3] (R71). -/
def optField (s : List Byte) : Opt := readAt s 3

/-- PTYPE = s[4] (R71). -/
def ptypeField (s : List Byte) : PType := readAt s 4

/-- TOTAL = 7 + LEN + OPT in 17 bits (R72, R142). -/
def totalOf (len : Len) (opt : Opt) : Total :=
  BitVec.ofNat Config.totalW Config.minFrame + len.setWidth Config.totalW + opt.setWidth Config.totalW

/-- The length a frame's own header declares (R72). -/
def frameTotal (s : List Byte) : Nat := (totalOf (lenField s) (optField s)).toNat

/-- The four header bytes, offsets 1 to 4 (R70, R105). -/
def headerOf (s : List Byte) : List Byte := slice s 1 Config.hckOff

/-- The payload of a frame of `total` bytes, offsets 6 to total-2 (R72, R106). -/
def payloadOf (s : List Byte) (total : Nat) : List Byte := slice s Config.dataOff (total - 1)

/-- The header checksum of `s` is the one computed from its header (R105). -/
abbrev HeaderOk (s : List Byte) : Prop := checksum (headerOf s) = readAt s Config.hckOff

/-- The payload checksum of `s`, a frame of `total` bytes, is the one computed from its payload (R106). -/
abbrev PayloadOk (s : List Byte) (total : Nat) : Prop := checksum (payloadOf s total) = readAt s (total - 1)

/-- A valid frame (R73). -/
abbrev ValidFrame (f : List Byte) : Prop :=
  Config.minFrame ≤ f.length ∧ readAt f 0 = Config.sync ∧ HeaderOk f ∧ f.length = frameTotal f ∧
    PayloadOk f (frameTotal f)

/-- The registers after the header check on RB: CHECKSUM leaves ACC, and HCK is its result (R105). -/
def headerCheckRegs (rb : Buffer) (w : WorkRegs) : WorkRegs :=
  let w := checksumRegs (bufSlice rb 1 Config.hckOff) w
  { w with hck := accHigh w.acc }

/-- The registers after the payload check on RB: CHECKSUM leaves ACC, and PCK is its result (R106). -/
def payloadCheckRegs (rb : Buffer) (w : WorkRegs) : WorkRegs :=
  let w := checksumRegs (bufSlice rb Config.dataOff (w.total.toNat - 1)) w
  { w with pck := accHigh w.acc }

end Sys2Proof.Machine
end

