-- ==== Sys2Proof/Machine/Codec.lean ====
section
/-! DEFINITION. The frame codec (41_frame_codec.md): the TX framer TXF and the frame decoder DECODE. -/

namespace Sys2Proof.Machine

/-! ### The TX framer (R122) -/

/-- The header bytes of a frame: len_hi, len_lo, opt_len, packet_type (R70, R122). -/
def headerBytes (len : Len) (opt : Opt) (ptype : PType) : List Byte := bytes16 len ++ [opt, ptype]

/-- The frame of R122: sync, header, header checksum, data, optional data, payload checksum. -/
def buildFrame (len : Len) (opt : Opt) (ptype : PType) (data optData : List Byte) : List Byte :=
  let header := headerBytes len opt ptype
  Config.sync :: header ++ checksum header :: data ++ optData ++ [checksum (data ++ optData)]

/-- frame(p), the frame TXF emits for a packet whose lengths are in range (R127). -/
def frameOf (p : Packet) : List Byte :=
  buildFrame (BitVec.ofNat Config.lenW p.data.length) (BitVec.ofNat Config.optW p.opt.length) p.ptype p.data p.opt

/-- The working registers after TXF has built its frame: LEN, OPT and PTYPE from the operands (R122), and ACC as the
last of its two checksums leaves it (R107). -/
def txfRegs (t : PType) (data opt : List Byte) (w : WorkRegs) : WorkRegs :=
  let w := { w with len := BitVec.ofNat Config.lenW data.length, opt := BitVec.ofNat Config.optW opt.length, ptype := t }
  checksumRegs (data ++ opt) (checksumRegs (headerBytes w.len w.opt w.ptype) w)

/-- TXF: the precondition first, both of its failures reported together and nothing emitted on TXD (R123); else one
frame on TXD and the response OK (R122). RB is neither read nor changed. -/
def execTxf (t : PType) (data opt : List Byte) (s : State) : Host.Outcome State Fault Refusal :=
  let flags := encodeFlags data.length opt.length
  if flags ≠ 0 then .next (respond (.errEncode flags) s)
  else
    let w := txfRegs t data opt s.wr
    .next (release (respond .ok (emitTxd (buildFrame w.len w.opt w.ptype data opt) { s with wr := w })))

/-! ### The frame decoder (R125) -/

/-- The registers DECODE writes from the frame's header (R125). -/
def decodeRegs (f : List Byte) (w : WorkRegs) : WorkRegs :=
  { w with len := lenField f, opt := optField f, ptype := ptypeField f }

/-- DECODE(f) on a valid frame: the packet its fields and slices give (R125). -/
def decodePacket (f : List Byte) (w : WorkRegs) : Packet × WorkRegs :=
  let w := decodeRegs f w
  let dataEnd := Config.dataOff + w.len.toNat
  ({ ptype := w.ptype, data := slice f Config.dataOff dataEnd, opt := slice f dataEnd (dataEnd + w.opt.toNat) }, w)

/-- DECODE, the internal function run on its own: on a valid frame it writes LEN, OPT and PTYPE and returns the packet
(R125); a sequence that is not a valid frame is refused (R126; log entry 11). -/
def execDecode (f : List Byte) (s : State) : Host.Outcome State Fault Refusal :=
  if ValidFrame f then
    let r := decodePacket f s.wr
    .next { s with wr := r.2, ret := .packet r.1 }
  else .refused .notAValidFrame

end Sys2Proof.Machine
end

