-- ==== Sys2Proof/Machine/RxActions.lean ====
section
/-! DEFINITION. The RX stream reassembler's selection, its actions, its loop and its valve (42_stream_decoder.md R141
to R150), and the seven RX instructions. -/

namespace Sys2Proof.Machine

/-! ### The selection (R142) -/

/-- RX_SELECT: the action RB calls for, and the working registers as the selection leaves them. The conditions stand in
the source's step order, which is their priority (R142, R191). -/
def rxSelect (rb : Buffer) (w : WorkRegs) : RxAction × WorkRegs :=
  if 1 ≤ bufLen rb ∧ bufRead rb 0 ≠ Config.sync then (.discard, w)
  else if bufLen rb < Config.minFrame then (.waitHeader, w)
  else
    let w := headerCheckRegs rb { w with len := lenField rb, opt := optField rb }
    if w.hck ≠ bufRead rb Config.hckOff then (.hdrSlip, w)
    else
      let w := { w with total := totalOf w.len w.opt }
      if bufLen rb < w.total.toNat then (.waitPayload, w)
      else
        let w := payloadCheckRegs rb w
        if w.pck = bufRead rb (w.total.toNat - 1) then (.deliver, w) else (.dropFrame, w)

/-! ### The actions' effects, the working registers being as RX_SELECT leaves them (R143 to R149) -/

/-- Step 1: discard one byte that is not a sync byte (R143). -/
def rxDiscard (s : State) : State :=
  bufDrop 1 (emitEvt (.unexp (bufRead s.rb 0)) s)

/-- Step 2: stop, RB unchanged, nothing emitted (R144). -/
def rxWaitHeader (s : State) : State := s

/-- Step 3 on a mismatch: report the header and drop byte 0 only (R145). -/
def rxHdrSlip (s : State) : State :=
  bufDrop 1 (emitEvt (.hdrBad (bufRead s.rb 1) (bufRead s.rb 2) (bufRead s.rb 3) (bufRead s.rb 4)
    (bufRead s.rb Config.hckOff) s.wr.hck) s)

/-- Step 4: stop, RB unchanged, nothing emitted (R146). -/
def rxWaitPayload (s : State) : State := s

/-- Step 5 on a match: decode the frame, deliver its packet and consume TOTAL bytes (R147). -/
def rxDeliver (s : State) : State :=
  let r := decodePacket (bufSlice s.rb 0 s.wr.total.toNat) s.wr
  let s := { s with wr := r.2 }
  bufDrop s.wr.total.toNat (emitEvt (.pkt r.1) s)

/-- Step 5 on a mismatch: report the frame, deliver nothing and consume TOTAL bytes (R148). -/
def rxDropFrame (s : State) : State :=
  bufDrop s.wr.total.toNat (emitEvt (.payBad (bufRead s.rb 4) s.wr.len s.wr.opt
    (bufRead s.rb (s.wr.total.toNat - 1)) s.wr.pck) s)

/-- Step 6, at a chunk boundary: when more than `WATERMARK` bytes remain, discard them all (R149). -/
def rxValve (s : State) : State :=
  if Config.watermark < bufLen s.rb then emitEvt (.ovfl (bufLen s.rb)) (bufClear s) else s

/-- The effect of a selected action (R141). -/
def performRx : RxAction → State → State
  | .discard => rxDiscard
  | .waitHeader => rxWaitHeader
  | .hdrSlip => rxHdrSlip
  | .waitPayload => rxWaitPayload
  | .deliver => rxDeliver
  | .dropFrame => rxDropFrame

/-- The two actions after which the loop stops (R141). -/
def isStop : RxAction → Bool
  | .discard => false
  | .waitHeader => true
  | .hdrSlip => false
  | .waitPayload => true
  | .deliver => false
  | .dropFrame => false

/-- The action RX_SELECT picks for the state's RB. -/
def selected (s : State) : RxAction := (rxSelect s.rb s.wr).1

/-- One turn of the loop: select, perform, and release the working registers (R141, R24). -/
def rxTurn (s : State) : State :=
  let r := rxSelect s.rb s.wr
  release (performRx r.1 { s with wr := r.2 })

/-! ### The loop (R141) -/

/-- At most `fuel` turns of the loop, ending with the first stop action. -/
def rxLoopFuel : Nat → State → State
  | 0, s => s
  | fuel + 1, s => if isStop (selected s) then rxTurn s else rxLoopFuel fuel (rxTurn s)

/-- RX_LOOP: turns until a stop action. From m buffered bytes it takes at most m actions that consume bytes and one
stop (R150), so m + 1 turns reach the stop (log entry 13). -/
def rxLoop (s : State) : State := rxLoopFuel (bufLen s.rb + 1) s

/-! ### The RX instructions -/

/-- An RX action run on its own: its turn of the loop where RX_SELECT picks it, refused elsewhere (log entry 9). -/
def runSelected (a : RxAction) (s : State) : Host.Outcome State Fault Refusal :=
  if selected s = a then .next (rxTurn s) else .refused .actionNotSelected

/-- RX_DISCARD (R143). -/
def execRxDiscard (s : State) : Host.Outcome State Fault Refusal := runSelected .discard s

/-- RX_WAIT_HEADER (R144). -/
def execRxWaitHeader (s : State) : Host.Outcome State Fault Refusal := runSelected .waitHeader s

/-- RX_HDR_SLIP (R145). -/
def execRxHdrSlip (s : State) : Host.Outcome State Fault Refusal := runSelected .hdrSlip s

/-- RX_WAIT_PAYLOAD (R146). -/
def execRxWaitPayload (s : State) : Host.Outcome State Fault Refusal := runSelected .waitPayload s

/-- RX_DELIVER (R147). -/
def execRxDeliver (s : State) : Host.Outcome State Fault Refusal := runSelected .deliver s

/-- RX_DROP_FRAME (R148). -/
def execRxDropFrame (s : State) : Host.Outcome State Fault Refusal := runSelected .dropFrame s

/-- RX_VALVE (R149), on any RB (log entry 10). -/
def execRxValve (s : State) : Host.Outcome State Fault Refusal := .next (release (rxValve s))

end Sys2Proof.Machine
end

