-- ==== Sys2Proof/Machine/Stream.lean ====
section
/-! DEFINITION. The byte-serial commands RXB and EOC (42_stream_decoder.md R151, R152), the pseudo-instruction FEED as
their expansion (30_encoding.md R87), and the chunk-level FEED of R140. -/

namespace Sys2Proof.Machine

/-- RXB b: append, run the loop, respond OK; the valve does not run (R151). An append that finds RB full, which no run
does (20_memory.md R62), has no effect in the spec and is a fault (R53; log entry 7). -/
def execRxb (b : Byte) (s : State) : Host.Outcome State Fault Refusal :=
  if bufHasRoom s.rb then .next (respond .ok (rxLoop (bufAppend b s))) else .fault .bufferFull

/-- EOC: run the loop and the valve, respond OK (R152). -/
def execEoc (s : State) : Host.Outcome State Fault Refusal :=
  .next (respond .ok (release (rxValve (rxLoop s))))

/-- FEED b0 .. b(n-1): RXB b0, .., RXB b(n-1), EOC (R87; log entry 8). -/
def execFeed (chunk : List Byte) (s : State) : Host.Outcome State Fault Refusal :=
  match chunk with
  | [] => execEoc s
  | b :: rest =>
    match execRxb b s with
    | .next t => execFeed rest t
    | .fault r => .fault r
    | .refused r => .refused r

/-- The chunk-level FEED of R140, the source's `feed`: append the whole chunk, run the loop, run the valve. Its
responses are those of the expansion, n + 1 times OK (R140). R140 gives only the RSP trace of this form; where its
responses stand among its events is left open, and they stand here after all of them: DESIGN CHOICE (log entry 26).
`execFeed` puts each response after its own command's events, as 20_memory.md R64 says. -/
def feedChunk (chunk : List Byte) (s : State) : State :=
  let s := rxValve (rxLoop { s with rb := s.rb ++ chunk })
  { s with out := s.out ++ List.replicate (chunk.length + 1) (.rsp (responseBytes .ok)) }

end Sys2Proof.Machine
end

