-- ==== Sys2Proof/Machine/Dispatch.lean ====
section
/-! DEFINITION. One arm for each row of spec/opcode_table.json. -/

namespace Sys2Proof.Machine

def exec (i : Instr) (s : State) : Host.Outcome State Fault Refusal :=
  match i with
  | .rxb b => Sys2Proof.Machine.execRxb b s
  | .eoc => Sys2Proof.Machine.execEoc s
  | .txf t data opt => Sys2Proof.Machine.execTxf t data opt s
  | .cks input => Sys2Proof.Machine.execCks input s
  | .reserved transfer => Sys2Proof.Machine.execReserved transfer s
  | .rst => Sys2Proof.Machine.execRst s
  | .feed chunk => Sys2Proof.Machine.execFeed chunk s
  | .checksum input => Sys2Proof.Machine.execChecksum input s
  | .decode frame => Sys2Proof.Machine.execDecode frame s
  | .rxDiscard => Sys2Proof.Machine.execRxDiscard s
  | .rxWaitHeader => Sys2Proof.Machine.execRxWaitHeader s
  | .rxHdrSlip => Sys2Proof.Machine.execRxHdrSlip s
  | .rxWaitPayload => Sys2Proof.Machine.execRxWaitPayload s
  | .rxDeliver => Sys2Proof.Machine.execRxDeliver s
  | .rxDropFrame => Sys2Proof.Machine.execRxDropFrame s
  | .rxValve => Sys2Proof.Machine.execRxValve s

end Sys2Proof.Machine
end

