-- ==== Sys2Proof/Machine/Fetch.lean ====
section
/-! DEFINITION. Where the block's next instruction comes from: the host's next move, a CMD transfer or RST (10_state.md
R31, R35). The block fetches no instructions from memory (20_memory.md R66; log entry 1). -/

namespace Sys2Proof.Machine

/-- The instruction of the host's next move, and the state with that move taken; none when the host makes none. -/
def fetch (s : State) : Option (Instr × State) :=
  match s.pending with
  | [] => none
  | m :: rest => some (decodeMove m, { s with pending := rest })

/-- The state in which the transfer `t` is the host's next move. -/
def offer (t : List Byte) (s : State) : State := { s with pending := .transfer t :: s.pending }

end Sys2Proof.Machine
end

