-- ==== Sys2Proof/Machine/Step.lean ====
section
/-! DEFINITION. One step: one host move, carried out whole (20_memory.md R61; 92_eei_decisions.md D1). -/

namespace Sys2Proof.Machine

/-- The block takes the host's next move and carries it out (R31, R61, R63). With no move to take it is idle and holds
its state (60_exceptions.md R199; log entry 2). -/
def step (s : State) : Host.Outcome State Fault Refusal :=
  match fetch s with
  | none => .next s
  | some (i, t) => exec i t

/-- The opcode table's word `w` of `nbits` bits as the host's next transfer (log entries 1 and 18). -/
def State.withFetchWord (s : State) (nbits w : Nat) : State := offer (tableTransfer nbits w) s

end Sys2Proof.Machine
end

