-- ==== Sys2Proof/Machine/Phase.lean ====
section
/-! DEFINITION. The conceptual phases of the reassembler as a function of RB (10_state.md R26, R27). No port shows a
phase and no action reads one (R28). -/

namespace Sys2Proof.Machine

/-- phase(RB) (R26). -/
def phase (rb : Buffer) : Phase :=
  if bufLen rb = 0 then .seeking
  else if bufRead rb 0 ≠ Config.sync then .seeking
  else if bufLen rb < Config.minFrame then .headerPending
  else if checksum (bufSlice rb 1 Config.hckOff) ≠ bufRead rb Config.hckOff then .headerReject
  else if bufLen rb < frameTotal rb then .headerValidated
  else .dispatch

end Sys2Proof.Machine
end

