-- ==== Sys2Proof/Safety.lean ====
section
/-! DEFINITION. What the statements about the block speak of: the rest invariants of 10_state.md R22 and
42_stream_decoder.md R154, what it means for an instruction to complete with given outputs, and runs of several
chunks. -/

namespace Sys2Proof.Machine

/-- Invariant (a) of R22 and R154, on RB: empty, or opened by the sync byte and shorter than a complete, validated
frame. -/
abbrev AtRest (rb : Buffer) : Prop :=
  rb = [] ∨ (1 ≤ rb.length ∧ readAt rb 0 = Config.sync ∧
    (rb.length < Config.minFrame ∨ (HeaderOk rb ∧ rb.length < frameTotal rb)))

/-- Invariants (a) and (b) of R22 and R154: at a chunk boundary RB also holds at most `WATERMARK` bytes. -/
abbrev AtChunkBoundary (rb : Buffer) : Prop := AtRest rb ∧ rb.length ≤ Config.watermark

/-- RB within its storage (R21). -/
abbrev WithinCapacity (rb : Buffer) : Prop := rb.length ≤ Config.bufCap

/-- The transfer begins with one of the event codes of R83. -/
abbrev LegalEvent (transfer : List Byte) : Prop :=
  transfer.head? ∈ [some (0x01 : Byte), some 0x02, some 0x03, some 0x04, some 0x10]

/-- Every event emitted so far has a code of R83. -/
abbrev EventsLegal (s : State) : Prop := ∀ transfer ∈ evtTrace s, LegalEvent transfer

/-- `i` runs from `s` to a next state in which RB is `rb`, exactly the transfers `outs` have been emitted, in that
order, and the host's pending moves and the returned value are unchanged. The working registers are left open: they
are unspecified once an action has ended (R24). -/
abbrev CompletesWith (i : Instr) (s : State) (rb : Buffer) (outs : List Output) : Prop :=
  ∃ t, exec i s = .next t ∧ t.rb = rb ∧ t.out = s.out ++ outs ∧ t.pending = s.pending ∧ t.ret = s.ret

/-- A frame given field by field (R70): sync, length bytes `h1 h2`, optional length `h3`, type `h4`, header checksum,
data, optional data, and `ck` where the payload checksum stands. -/
abbrev frameBytes (h1 h2 h3 h4 : Byte) (data opt : List Byte) (ck : Byte) : List Byte :=
  [0x55, h1, h2, h3, h4, checksum [h1, h2, h3, h4]] ++ data ++ opt ++ [ck]

/-- The PKT transfer of R83, its length bytes those of the given lengths. -/
abbrev pktBytes (t : Byte) (data opt : List Byte) : List Byte :=
  [0x10, t, BitVec.ofNat 8 (data.length / 256), BitVec.ofNat 8 data.length, BitVec.ofNat 8 opt.length] ++ data ++ opt

/-- The OVFL transfer of R83 for `n` flushed bytes. -/
abbrev ovflBytes (n : Nat) : List Byte :=
  [0x04, BitVec.ofNat 8 (n / 2 ^ 24), BitVec.ofNat 8 (n / 2 ^ 16), BitVec.ofNat 8 (n / 2 ^ 8), BitVec.ofNat 8 n]

/-- `k` steps, ended by the first fault or refusal. -/
def steps : Nat → State → Host.Outcome State Fault Refusal
  | 0, s => .next s
  | k + 1, s =>
    match step s with
    | .next t => steps k t
    | .fault r => .fault r
    | .refused r => .refused r

/-- One FEED after another (R158). -/
def feedAll : List (List Byte) → State → Host.Outcome State Fault Refusal
  | [], s => .next s
  | c :: cs, s =>
    match exec (.feed c) s with
    | .next t => feedAll cs t
    | .fault r => .fault r
    | .refused r => .refused r

/-- No EOC but the last one finds more than `WATERMARK` bytes in RB (R158): after the loop over each chunk that is not
the last, RB holds at most `WATERMARK` bytes. -/
def Quiet : List (List Byte) → State → Prop
  | [], _ => True
  | [_], _ => True
  | c :: d :: cs, s =>
    (rxLoop { s with rb := s.rb ++ c }).rb.length ≤ Config.watermark ∧
      ∀ t, exec (.feed c) s = .next t → Quiet (d :: cs) t

end Sys2Proof.Machine
end

