-- ==== Sys2Proof/Certificates/Slice0/Obligations.lean ====
section
/-! DEFINITION. The statements about the block, one `def Obligations.<Name> : Prop` each; OBLIGATIONS.json lists
them. -/

open Sys2Proof Sys2Proof.Machine

/-! ### Parameters -/

/-- R7: the five relations between the parameters; and R6's value of every parameter. -/
def Obligations.ParameterRelationsHold : Prop :=
  (Config.hckOff = 1 + Config.hdrLen ∧ Config.dataOff = Config.hckOff + 1 ∧ Config.minFrame = Config.dataOff + 1 ∧
    Config.ckXor.toNat = Config.ckXorBase.toNat * 8 ∧ Config.ckXor = 0x8380 ∧
    Config.maxFrame = Config.minFrame + Config.maxData + Config.maxOpt ∧ Config.maxFrame ≤ Config.bufCap) ∧
  (Config.sync = 0x55 ∧ Config.hdrLen = 4 ∧ Config.hckOff = 5 ∧ Config.dataOff = 6 ∧ Config.minFrame = 7 ∧
    Config.watermark = 100 ∧ Config.ckXorBase = 0x1070 ∧ Config.accW = 16 ∧ Config.lenW = 16 ∧ Config.maxData = 65535 ∧
    Config.optW = 8 ∧ Config.maxOpt = 255 ∧ Config.typeW = 8 ∧ Config.maxFrame = 65797 ∧ Config.bufCap = 65797)

/-! ### Encodings -/

/-- R81, with R75 and R80: every byte sequence decodes to one of the five rows, to the reserved one exactly when its
opcode is reserved or its length is wrong; encoding what was decoded gives the transfer back, so no two transfers share
a meaning; what was decoded is well formed. -/
def Obligations.DecodingATransferIsTotalAndLossless : Prop :=
  ∀ t : List Byte,
    ((∃ b, decode t = .rxb b) ∨ decode t = .eoc ∨ (∃ ty data opt, decode t = .txf ty data opt) ∨
      (∃ input, decode t = .cks input) ∨ decode t = .reserved t) ∧
    (decode t = .reserved t ↔ badTransfer t = true) ∧
    encode (decode t) = [.transfer t] ∧ wellFormed (decode t) = true

/-- R75 to R80, R87 to R89: decoding what was encoded gives the instruction back, for every well-formed instruction a
host can issue; FEED comes back as its expansion; an internal function or RX action has no encoding. -/
def Obligations.EncodingThenDecodingGivesTheInstruction : Prop :=
  (∀ b, (encode (.rxb b)).map decodeMove = [.rxb b]) ∧
  ((encode .eoc).map decodeMove = [.eoc]) ∧
  (∀ t data opt, wellFormed (.txf t data opt) = true →
    (encode (.txf t data opt)).map decodeMove = [.txf t data opt]) ∧
  (∀ input, wellFormed (.cks input) = true → (encode (.cks input)).map decodeMove = [.cks input]) ∧
  (∀ t, wellFormed (.reserved t) = true → (encode (.reserved t)).map decodeMove = [.reserved t]) ∧
  ((encode .rst).map decodeMove = [.rst]) ∧
  (∀ chunk, (encode (.feed chunk)).map decodeMove = chunk.map Instr.rxb ++ [.eoc]) ∧
  (∀ input, encode (.checksum input) = []) ∧ (∀ frame, encode (.decode frame) = []) ∧
  ∀ i ∈ [Instr.rxDiscard, .rxWaitHeader, .rxHdrSlip, .rxWaitPayload, .rxDeliver, .rxDropFrame, .rxValve], encode i = []

/-- R79: the CKS operands of a transfer, its count big-endian. -/
def Obligations.CksTransferCarriesABigEndianCount : Prop :=
  ∀ (n3 n2 n1 n0 : Byte) (input : List Byte),
    input.length = n3.toNat * 2 ^ 24 + n2.toNat * 2 ^ 16 + n1.toNat * 2 ^ 8 + n0.toNat →
    decode (0x04 :: n3 :: n2 :: n1 :: n0 :: input) = .cks input

/-- R78: the TXF operands of a transfer, both counts big-endian; the data come first. -/
def Obligations.TxfTransferCarriesTwoBigEndianCounts : Prop :=
  ∀ (t d3 d2 d1 d0 o1 o0 : Byte) (data opt : List Byte),
    data.length = d3.toNat * 2 ^ 24 + d2.toNat * 2 ^ 16 + d1.toNat * 2 ^ 8 + d0.toNat →
    opt.length = o1.toNat * 2 ^ 8 + o0.toNat →
    decode ([0x03, t, d3, d2, d1, d0, o1, o0] ++ data ++ opt) = .txf t data opt

/-- R80, R187: a reserved opcode or a malformed transfer, an empty one among them, gets ERR_BADCMD and changes
nothing else. -/
def Obligations.BadTransfersGetErrBadCmdAndChangeNothing : Prop :=
  ∀ (s : State) (t : List Byte), badTransfer t = true →
    decode t = .reserved t ∧ exec (.reserved t) s = .next { s with out := s.out ++ [.rsp [0x02]] }

/-- R75, R80: transfers of 95_test_vectors.md (V-CMD, V-CKS, V-TX) decode to the instructions they stand for. -/
def Obligations.SampleTransfersDecode : Prop :=
  decode [0x01, 0x55] = .rxb 0x55 ∧ decode [0x02] = .eoc ∧
  decode [0x03, 0x0A, 0, 0, 0, 2, 0, 2, 0x55, 0xAA, 0x01, 0xFF] = .txf 0x0A [0x55, 0xAA] [0x01, 0xFF] ∧
  decode [0x04, 0, 0, 0, 1, 0x01] = .cks [0x01] ∧ decode [] = .reserved [] ∧
  decode [0xFF, 0x00] = .reserved [0xFF, 0x00] ∧ decode [0x01, 0x55, 0x00] = .reserved [0x01, 0x55, 0x00] ∧
  decode [0x04, 0, 0, 0, 2, 0x01] = .reserved [0x04, 0, 0, 0, 2, 0x01]

/-! ### Steps -/

/-- R31, R35, R61: a step takes the host's next move and carries out the instruction it decodes to. -/
def Obligations.StepRunsTheDecodedMove : Prop :=
  ∀ (s : State) (m : HostMove) (rest : List HostMove), s.pending = m :: rest →
    step s = exec (decodeMove m) { s with pending := rest }

/-- R199 and log entry 2 (the model's reading of 'idle' as a step): with no move to take the block holds its state. -/
def Obligations.IdleBlockHoldsItsState : Prop :=
  ∀ s : State, s.pending = [] → step s = .next s

/-- R32, R64, R210: each command completes, emits exactly one response and emits it last; only RXB and EOC emit on EVT
and only TXF on TXD; RST completes and emits nothing; nothing already emitted is withdrawn. -/
def Obligations.EachCommandEmitsOneResponseLast : Prop :=
  ∀ (s : State) (m : HostMove) (rest : List HostMove), AtRest s.rb → s.pending = m :: rest →
    ∃ t, step s = .next t ∧ t.pending = rest ∧
      match m with
      | .rst => t.out = s.out
      | .transfer bytes =>
        ∃ (mid : List Output) (r : List Byte), t.out = s.out ++ mid ++ [.rsp r] ∧
          (∀ o ∈ mid, rspOf o = none) ∧
          ((∃ o ∈ mid, evtOf o ≠ none) → (∃ b, decode bytes = .rxb b) ∨ decode bytes = .eoc) ∧
          ((∃ o ∈ mid, txdOf o ≠ none) → ∃ ty data opt, decode bytes = .txf ty data opt) ∧
          match decode bytes with
          | .cks input => r = [0x00, checksum input]
          | .txf _ _ _ => r = [0x00] ∨ ∃ flags, r = [0x01, flags]
          | .reserved _ => r = [0x02]
          | _ => r = [0x00]

/-- R154 (a), R180, R221: from a state at rest no step stops. -/
def Obligations.NoStepStopsFromRest : Prop :=
  ∀ s : State, AtRest s.rb → ∃ t, step s = .next t

/-- R154 (a), R22 (a): every step keeps the rest invariant. -/
def Obligations.EveryStepKeepsTheBufferAtRest : Prop :=
  ∀ s t : State, AtRest s.rb → step s = .next t → AtRest t.rb

/-- R21: every instruction keeps RB within its storage. -/
def Obligations.EveryInstructionKeepsTheBufferWithinCapacity : Prop :=
  ∀ (i : Instr) (s t : State), WithinCapacity s.rb → exec i s = .next t →
    WithinCapacity t.rb

/-- R83: every event emitted has one of the codes 01, 02, 03, 04 and 10. -/
def Obligations.EveryInstructionEmitsOnlyLegalEvents : Prop :=
  ∀ (i : Instr) (s t : State), EventsLegal s → exec i s = .next t → EventsLegal t

/-- R188, R24, R63: what an instruction does depends on RB and its operands alone: from two states with equal RB, and
whatever working registers, traces and pending moves, it completes in both or stops for the same reason in both, and
leaves the same RB and emits the same transfers. -/
def Obligations.OnlyTheBufferCarriesHistory : Prop :=
  ∀ (i : Instr) (s s' : State), s.rb = s'.rb →
    (∃ t t' outs, exec i s = .next t ∧ exec i s' = .next t' ∧ t.rb = t'.rb ∧ t.out = s.out ++ outs ∧
      t'.out = s'.out ++ outs) ∨
    (∃ r, exec i s = .fault r ∧ exec i s' = .fault r) ∨ (∃ r, exec i s = .refused r ∧ exec i s' = .refused r)

/-! ### Reset -/

/-- R213, R211: at power-on RB is empty, nothing has been emitted and the phase is SEEKING; the rest invariants
hold (R154). -/
def Obligations.PowerOnStateIsEmptyAndSilent : Prop :=
  State.reset.rb = [] ∧ State.reset.out = [] ∧ phase State.reset.rb = .seeking ∧ AtChunkBoundary State.reset.rb

/-- R210: RST empties RB, emits nothing and leaves earlier outputs in place. -/
def Obligations.ResetInputEmptiesTheBuffer : Prop :=
  ∀ s : State, ∃ t, exec .rst s = .next t ∧ t.rb = [] ∧ t.out = s.out ∧ t.pending = s.pending

/-! ### The checksum-8 unit -/

/-- R100: CHECKSUM run on its own leaves the bit-serial accumulator in ACC and returns its high byte; it changes
nothing else. The algorithm is written out from the rule. -/
def Obligations.ChecksumRunsTheBitSerialAlgorithm : Prop :=
  ∀ (input : List Byte) (s : State),
    exec (.checksum input) s =
      let iteration := fun a : BitVec 16 => (if a.msb then a ^^^ 0x8380 else a) <<< 1
      let acc := input.foldl (fun (a : BitVec 16) (b : Byte) => iteration^[8] (a ^^^ (b.setWidth 16 <<< 8)))
        (0 : BitVec 16)
      .next { s with wr := { s.wr with acc := acc }, ret := .byte ((acc >>> 8).setWidth 8) }

/-- R100's corner case: ACC[7:0] is 0 after every one of the iterations. -/
def Obligations.AccumulatorLowByteStaysZero : Prop :=
  ∀ (s : List Byte) (b : Byte) (n : Nat),
    (ckBits n (checksumAcc s ^^^ (b.setWidth 16 <<< 8))).setWidth 8 = (0 : Byte)

/-- R102: the bit-serial checksum is the byte-wise one, iteration by iteration and as a whole. -/
def Obligations.BitSerialChecksumIsTheBytewiseOne : Prop :=
  (∀ acc : Acc, acc.setWidth 8 = (0 : Byte) →
    accHigh (ckBit acc) = if (accHigh acc).msb then (accHigh acc <<< 1) ^^^ 0x07 else accHigh acc <<< 1) ∧
  ∀ s : List Byte, checksum s = checksum8 s

/-- R101: an accumulator that is never masked gives the same checksum. -/
def Obligations.UnmaskedAccumulatorGivesTheSameChecksum : Prop :=
  ∀ s : List Byte, checksumWide s = checksum s

/-- R104: appending its checksum to a sequence gives checksum 0; hence a valid frame's header and payload, each with
its checksum, have checksum 0, and a frame 55 00 00 00 tt hc 00 is valid exactly when hc is its header's checksum. -/
def Obligations.AppendingTheChecksumGivesZero : Prop :=
  (∀ m : List Byte, checksum (m ++ [checksum m]) = 0x00) ∧
  (∀ f : List Byte, ValidFrame f → checksum (slice f 1 6) = 0x00 ∧ checksum (slice f 6 (frameTotal f)) = 0x00) ∧
  (∀ tt hc : Byte, ValidFrame [0x55, 0x00, 0x00, 0x00, tt, hc, 0x00] ↔ hc = checksum [0x00, 0x00, 0x00, tt]) ∧
  checksum [] = 0x00

/-- R108: CKS answers 00 vv with vv the checksum of its input, 00 for no input, and touches no buffer and no other
port. -/
def Obligations.CksRespondsWithTheChecksum : Prop :=
  (∀ (input : List Byte) (s : State), CompletesWith (.cks input) s s.rb [.rsp [0x00, checksum input]]) ∧
  checksum [] = 0x00

/-! ### The frame codec -/

/-- R122, R123: TXF emits one frame, laid out as R70 says, and answers OK when both counts are in range; else it emits
no frame and answers ERR_ENCODE with bit 0 for the data and bit 1 for the optional data, both when both apply, and
changes nothing else. -/
def Obligations.TxfEmitsOneFrameOrReportsBothFlags : Prop :=
  ∀ (t : Byte) (data opt : List Byte) (s : State),
    (data.length ≤ 65535 ∧ opt.length ≤ 255 →
      CompletesWith (.txf t data opt) s s.rb
        [.txd (frameBytes (BitVec.ofNat 8 (data.length / 256)) (BitVec.ofNat 8 data.length) (BitVec.ofNat 8 opt.length)
          t data opt (checksum (data ++ opt))), .rsp [0x00]]) ∧
    (65535 < data.length ∨ 255 < opt.length →
      exec (.txf t data opt) s = .next { s with out := s.out ++
        [.rsp [0x01, (if 65535 < data.length then 0x01 else 0x00) + (if 255 < opt.length then 0x02 else 0x00)]] })

/-- R124: the frame TXF emits is a valid frame of 7 + d + o bytes. -/
def Obligations.TransmittedFramesAreValid : Prop :=
  ∀ (t : Byte) (data opt : List Byte) (s : State), data.length ≤ 65535 → opt.length ≤ 255 →
    ∃ f u, exec (.txf t data opt) s = .next u ∧ txdTrace u = txdTrace s ++ [f] ∧ ValidFrame f ∧
      f.length = 7 + data.length + opt.length

/-- R125: DECODE on a frame of R70's layout writes LEN, OPT and PTYPE and returns the packet; it changes nothing
else. -/
def Obligations.DecodeReturnsThePacketOfAFrame : Prop :=
  ∀ (h1 h2 h3 h4 : Byte) (data opt : List Byte) (s : State),
    data.length = h1.toNat * 256 + h2.toNat → opt.length = h3.toNat →
    exec (.decode (frameBytes h1 h2 h3 h4 data opt (checksum (data ++ opt)))) s =
      .next { s with wr := { s.wr with len := be16 h1 h2, opt := h3, ptype := h4 },
                     ret := .packet { ptype := h4, data := data, opt := opt } }

/-- R126 and log entry 11: DECODE on a sequence that is not a valid frame is refused. -/
def Obligations.DecodeRefusesInvalidFrames : Prop :=
  ∀ (f : List Byte) (s : State), ¬ ValidFrame f → exec (.decode f) s = .refused .notAValidFrame

/-- R127: DECODE of the frame TXF emits for a packet returns that packet. -/
def Obligations.DecodingATransmittedFrameGivesThePacket : Prop :=
  ∀ (p : Packet) (s : State), p.data.length ≤ 65535 → p.opt.length ≤ 255 →
    ∃ f u v, exec (.txf p.ptype p.data p.opt) s = .next u ∧ txdTrace u = txdTrace s ++ [f] ∧
      exec (.decode f) u = .next v ∧ v.ret = .packet p ∧ v.rb = s.rb ∧ v.out = u.out

/-- R128: for a valid frame f, encoding DECODE(f) gives f back; so a PKT event determines its frame. -/
def Obligations.EncodingADecodedFrameGivesTheFrame : Prop :=
  (∀ (f : List Byte) (s : State), ValidFrame f →
    ∃ p u v, exec (.decode f) s = .next u ∧ u.ret = .packet p ∧ exec (.txf p.ptype p.data p.opt) u = .next v ∧
      txdTrace v = txdTrace s ++ [f]) ∧
  (∀ (f g : List Byte) (p q : Packet) (s u v : State), ValidFrame f → ValidFrame g →
    exec (.decode f) s = .next u → exec (.decode g) s = .next v → u.ret = .packet p → v.ret = .packet q →
    eventBytes (.pkt p) = eventBytes (.pkt q) → f = g)

/-- R129: feeding the frame TXF emits into an empty RB as one chunk gives exactly one event, the packet, and leaves RB
empty. -/
def Obligations.LoopbackDeliversTheTransmittedPacket : Prop :=
  ∀ (t : Byte) (data opt : List Byte) (s : State), s.rb = [] → data.length ≤ 65535 → opt.length ≤ 255 →
    ∃ f u v, exec (.txf t data opt) s = .next u ∧ txdTrace u = txdTrace s ++ [f] ∧
      exec (.feed f) u = .next v ∧ v.rb = [] ∧ evtTrace v = evtTrace s ++ [pktBytes t data opt]

/-! ### The reassembly buffer -/

/-- R51, R53, R54, R55: an append puts the byte at offset BufLen() and moves no other; a drop of k bytes moves the byte
at offset i to offset i - k; a clear leaves nothing. -/
def Obligations.OffsetsFollowAppendsAndDrops : Prop :=
  ∀ (s : State) (b : Byte) (k i : Nat),
    bufLen (bufAppend b s).rb = bufLen s.rb + 1 ∧ bufRead (bufAppend b s).rb (bufLen s.rb) = b ∧
    (i < bufLen s.rb → bufRead (bufAppend b s).rb i = bufRead s.rb i) ∧
    (k ≤ i → i < bufLen s.rb → bufRead (bufDrop k s).rb (i - k) = bufRead s.rb i) ∧
    (k ≤ bufLen s.rb → bufLen (bufDrop k s).rb = bufLen s.rb - k) ∧ bufLen (bufClear s).rb = 0

/-- R62: at rest RB holds at most 65796 bytes, so RXB's append never finds RB full and leaves at most 65797; the valve
and reset only shrink RB. -/
def Obligations.AppendNeverFindsTheBufferFull : Prop :=
  Config.bufCap = Config.maxFrame ∧ Config.bufCap = 65797 ∧
  (∀ s : State, (rxLoop s).rb.length ≤ 65796) ∧
  (∀ (s : State) (b : Byte), AtRest s.rb →
    s.rb.length ≤ 65796 ∧ (bufAppend b s).rb.length ≤ Config.bufCap ∧ ∃ t, exec (.rxb b) s = .next t) ∧
  (∀ s t : State, exec .rxValve s = .next t → t.rb.length ≤ s.rb.length) ∧
  (∀ s t : State, exec .rst s = .next t → t.rb.length ≤ s.rb.length)

/-! ### The RX actions -/

/-- R142, R191: RX_SELECT picks exactly one action, from RB alone, by the conditions in the order of the rule, and
leaves in LEN, OPT, HCK, TOTAL and PCK the values the rule computes on the way. -/
def Obligations.SelectionFollowsTheActionMap : Prop :=
  ∀ (rb : Buffer) (w : WorkRegs),
    let a := (rxSelect rb w).1
    let regs := (rxSelect rb w).2
    let framed := rb.head? = some 0x55 ∧ 7 ≤ rb.length
    let total := 7 + (readAt rb 1).toNat * 256 + (readAt rb 2).toNat + (readAt rb 3).toNat
    let headerOk := checksum [readAt rb 1, readAt rb 2, readAt rb 3, readAt rb 4] = readAt rb 5
    let payloadOk := checksum (slice rb 6 (total - 1)) = readAt rb (total - 1)
    (a = .discard ↔ rb ≠ [] ∧ rb.head? ≠ some 0x55) ∧
    (a = .waitHeader ↔ rb = [] ∨ (rb.head? = some 0x55 ∧ rb.length < 7)) ∧
    (a = .hdrSlip ↔ framed ∧ ¬ headerOk) ∧
    (a = .waitPayload ↔ framed ∧ headerOk ∧ rb.length < total) ∧
    (a = .deliver ↔ framed ∧ headerOk ∧ total ≤ rb.length ∧ payloadOk) ∧
    (a = .dropFrame ↔ framed ∧ headerOk ∧ total ≤ rb.length ∧ ¬ payloadOk) ∧
    (framed → regs.len = be16 (readAt rb 1) (readAt rb 2) ∧ regs.opt = readAt rb 3 ∧
      regs.hck = checksum (slice rb 1 5)) ∧
    (framed → headerOk → regs.total.toNat = total) ∧
    (framed → headerOk → total ≤ rb.length → regs.pck = checksum (slice rb 6 (total - 1)))

/-- Log entry 9 (the model's choice): an RX action run on its own where RX_SELECT picks another is refused. -/
def Obligations.UnselectedRxActionsAreRefused : Prop :=
  ∀ s : State,
    (selected s ≠ .discard → exec .rxDiscard s = .refused .actionNotSelected) ∧
    (selected s ≠ .waitHeader → exec .rxWaitHeader s = .refused .actionNotSelected) ∧
    (selected s ≠ .hdrSlip → exec .rxHdrSlip s = .refused .actionNotSelected) ∧
    (selected s ≠ .waitPayload → exec .rxWaitPayload s = .refused .actionNotSelected) ∧
    (selected s ≠ .deliver → exec .rxDeliver s = .refused .actionNotSelected) ∧
    (selected s ≠ .dropFrame → exec .rxDropFrame s = .refused .actionNotSelected)

/-- R143: a byte that is not the sync byte is reported and dropped, and only that byte. -/
def Obligations.DiscardReportsAndDropsOneByte : Prop :=
  ∀ (b : Byte) (rest : Buffer) (s : State), s.rb = b :: rest → b ≠ 0x55 →
    CompletesWith .rxDiscard s rest [.evt [0x01, b]]

/-- R144: with RB empty, or opened by the sync byte and shorter than 7 bytes, the loop stops and nothing changes. -/
def Obligations.WaitHeaderChangesNothing : Prop :=
  ∀ s : State, s.rb = [] ∨ (s.rb.head? = some 0x55 ∧ s.rb.length < 7) → CompletesWith .rxWaitHeader s s.rb []

/-- R145: on a header checksum mismatch the header is reported and the sync byte alone is dropped. -/
def Obligations.HeaderSlipDropsOnlyTheSyncByte : Prop :=
  ∀ (h1 h2 h3 h4 rx : Byte) (rest : Buffer) (s : State), s.rb = 0x55 :: h1 :: h2 :: h3 :: h4 :: rx :: rest →
    rest ≠ [] → checksum [h1, h2, h3, h4] ≠ rx →
    CompletesWith .rxHdrSlip s (h1 :: h2 :: h3 :: h4 :: rx :: rest)
      [.evt [0x02, h1, h2, h3, h4, rx, checksum [h1, h2, h3, h4]]]

/-- R146: with a valid header and an incomplete frame the loop stops and nothing changes. -/
def Obligations.WaitPayloadChangesNothing : Prop :=
  ∀ (h1 h2 h3 h4 : Byte) (rest : Buffer) (s : State),
    s.rb = 0x55 :: h1 :: h2 :: h3 :: h4 :: checksum [h1, h2, h3, h4] :: rest → rest ≠ [] →
    s.rb.length < 7 + h1.toNat * 256 + h2.toNat + h3.toNat → CompletesWith .rxWaitPayload s s.rb []

/-- R147, with R83's PKT: a complete frame whose checksums match is delivered, and exactly its bytes are consumed. -/
def Obligations.DeliverEmitsThePacketAndConsumesTheFrame : Prop :=
  ∀ (h1 h2 h3 h4 : Byte) (data opt : List Byte) (rest : Buffer) (s : State),
    data.length = h1.toNat * 256 + h2.toNat → opt.length = h3.toNat →
    s.rb = frameBytes h1 h2 h3 h4 data opt (checksum (data ++ opt)) ++ rest →
    CompletesWith .rxDeliver s rest [.evt ([0x10, h4, h1, h2, h3] ++ data ++ opt)]

/-- R148, with R83's PAYBAD: a complete frame whose payload checksum does not match is reported, not delivered, and
exactly its bytes are consumed. -/
def Obligations.DropFrameReportsAndConsumesTheFrame : Prop :=
  ∀ (h1 h2 h3 h4 rx : Byte) (data opt : List Byte) (rest : Buffer) (s : State),
    data.length = h1.toNat * 256 + h2.toNat → opt.length = h3.toNat → rx ≠ checksum (data ++ opt) →
    s.rb = frameBytes h1 h2 h3 h4 data opt rx ++ rest →
    CompletesWith .rxDropFrame s rest [.evt [0x03, h4, h1, h2, h3, rx, checksum (data ++ opt)]]

/-- R149: at a fixed point of the loop, with more than 100 bytes in RB the valve discards them all and reports their
number; with 100 or fewer it changes nothing. -/
def Obligations.ValveFlushesMoreThanAHundredBytes : Prop :=
  ∀ s : State, AtRest s.rb →
    (100 < s.rb.length → CompletesWith .rxValve s [] [.evt (ovflBytes s.rb.length)]) ∧
    (s.rb.length ≤ 100 → CompletesWith .rxValve s s.rb [])

/-- Log entry 10 (the model's choice): RX_VALVE run on its own takes any RB, at a fixed point or not, by the same
comparison. -/
def Obligations.ValveRunsOnAnyBuffer : Prop :=
  ∀ s : State, CompletesWith .rxValve s (if 100 < s.rb.length then [] else s.rb)
    (if 100 < s.rb.length then [.evt (ovflBytes s.rb.length)] else [])

/-! ### The RX loop -/

/-- R150, R141: from m buffered bytes the loop takes some k ≤ m actions that are no stop, then exactly one stop
action. -/
def Obligations.LoopEndsWithOneStopAction : Prop :=
  ∀ s : State, ∃ k, k ≤ s.rb.length ∧ (∀ j, j < k → isStop (selected (rxTurn^[j] s)) = false) ∧
    isStop (selected (rxTurn^[k] s)) = true ∧ rxLoop s = rxTurn^[k + 1] s

/-- R154, R22: after the loop, and after RXB, RB is empty or opened by the sync byte and shorter than a complete
validated frame; after EOC and FEED it also holds at most 100 bytes; TXF and CKS leave RB alone; at reset both
hold. -/
def Obligations.RestInvariantsAreEstablished : Prop :=
  (∀ s : State, AtRest (rxLoop s).rb) ∧
  (∀ (b : Byte) (s t : State), exec (.rxb b) s = .next t → AtRest t.rb) ∧
  (∀ s t : State, exec .eoc s = .next t → AtRest t.rb ∧ t.rb.length ≤ 100) ∧
  (∀ (chunk : List Byte) (s t : State), exec (.feed chunk) s = .next t → AtRest t.rb ∧ t.rb.length ≤ 100) ∧
  (∀ (ty : Byte) (data opt : List Byte) (s t : State), exec (.txf ty data opt) s = .next t → t.rb = s.rb) ∧
  (∀ (input : List Byte) (s t : State), exec (.cks input) s = .next t → t.rb = s.rb) ∧
  AtRest State.reset.rb ∧ State.reset.rb.length ≤ 100

/-- R26: the phase is the function of RB that the rule defines. -/
def Obligations.PhasesFollowTheirDefinition : Prop :=
  ∀ rb : Buffer,
    let framed := rb.head? = some 0x55 ∧ 7 ≤ rb.length
    let total := 7 + (readAt rb 1).toNat * 256 + (readAt rb 2).toNat + (readAt rb 3).toNat
    let headerOk := checksum (slice rb 1 5) = readAt rb 5
    (phase rb = .seeking ↔ rb = [] ∨ rb.head? ≠ some 0x55) ∧
    (phase rb = .headerPending ↔ rb.head? = some 0x55 ∧ rb.length < 7) ∧
    (phase rb = .headerReject ↔ framed ∧ ¬ headerOk) ∧
    (phase rb = .headerValidated ↔ framed ∧ headerOk ∧ rb.length < total) ∧
    (phase rb = .dispatch ↔ framed ∧ headerOk ∧ total ≤ rb.length)

/-- R27, R26: RB is at rest exactly when its phase is SEEKING with RB empty, HEADER_PENDING or HEADER_VALIDATED; the
loop leaves RB so. -/
def Obligations.RestPhasesAreTheWaitingOnes : Prop :=
  (∀ rb : Buffer, AtRest rb ↔
    (phase rb = .seeking ∧ rb = []) ∨ phase rb = .headerPending ∨ phase rb = .headerValidated) ∧
  ∀ s : State, (phase (rxLoop s).rb = .seeking ∧ (rxLoop s).rb = []) ∨ phase (rxLoop s).rb = .headerPending ∨
    phase (rxLoop s).rb = .headerValidated

/-- The law behind R153, L(B ++ C) = L(L(B) ++ C): running the loop before more bytes arrive changes neither the final
RB nor the outputs. -/
def Obligations.LoopResumesAcrossAppends : Prop :=
  ∀ (s : State) (c : List Byte),
    let all := rxLoop { s with rb := s.rb ++ c }
    let first := rxLoop s
    let both := rxLoop { first with rb := first.rb ++ c }
    all.rb = both.rb ∧ all.out = both.out

/-! ### The byte-serial commands and FEED -/

/-- R151, R53: where RB has room RXB appends its byte, runs the loop, not the valve, and answers OK; what the loop
emitted is on EVT alone; RB is left at a fixed point of the loop; from rest at most one PKT or PAYBAD is emitted. -/
def Obligations.RxbAppendsAndRunsTheLoop : Prop :=
  ∀ (b : Byte) (s : State), s.rb.length < Config.bufCap →
    ∃ (t : State) (evs : List (List Byte)),
      exec (.rxb b) s = .next t ∧ t.rb = (rxLoop { s with rb := s.rb ++ [b] }).rb ∧ AtRest t.rb ∧
      (rxLoop { s with rb := s.rb ++ [b] }).out = s.out ++ evs.map Output.evt ∧
      t.out = s.out ++ evs.map Output.evt ++ [.rsp [0x00]] ∧ t.pending = s.pending ∧ t.ret = s.ret ∧
      (AtRest s.rb → (evs.filter fun e => e.head? = some 0x10 ∨ e.head? = some 0x03).length ≤ 1)

/-- Log entry 7 (the model's choice): an append that finds RB full, its precondition broken (R53), is the model's
fault. -/
def Obligations.RxbOnAFullBufferFaults : Prop :=
  ∀ (b : Byte) (s : State), Config.bufCap ≤ s.rb.length → exec (.rxb b) s = .fault .bufferFull

/-- R152: EOC runs the loop and then the valve and answers OK, and leaves RB as it is at a chunk boundary; from rest
it flushes RB with OVFL when more than 100 bytes are held and keeps RB otherwise. -/
def Obligations.EocRunsTheLoopAndTheValve : Prop :=
  ∀ s : State,
    (∃ t, exec .eoc s = .next t ∧ AtChunkBoundary t.rb ∧ t.rb = (rxValve (rxLoop s)).rb ∧
      t.out = (rxValve (rxLoop s)).out ++ [.rsp [0x00]] ∧ t.pending = s.pending ∧ t.ret = s.ret) ∧
    (AtRest s.rb → 100 < s.rb.length → CompletesWith .eoc s [] [.evt (ovflBytes s.rb.length), .rsp [0x00]]) ∧
    (AtRest s.rb → s.rb.length ≤ 100 → CompletesWith .eoc s s.rb [.rsp [0x00]])

/-- R157: from a chunk boundary an empty chunk, which is EOC alone, leaves RB unchanged and emits no event. -/
def Obligations.EmptyChunkChangesNothing : Prop :=
  ∀ s : State, AtChunkBoundary s.rb → exec (.feed []) s = exec .eoc s ∧ CompletesWith (.feed []) s s.rb [.rsp [0x00]]

/-- R87: running the moves RXB b0, .., RXB b(n-1), EOC that FEED expands to, one step each, is FEED. -/
def Obligations.FeedRunsItsExpansion : Prop :=
  ∀ (chunk : List Byte) (rest : List HostMove) (s : State),
    steps (chunk.length + 1)
        { s with pending := chunk.map (fun b => HostMove.transfer [0x01, b]) ++ .transfer [0x02] :: rest } =
      exec (.feed chunk) { s with pending := rest }

/-- R140, R153: from rest, FEED completes and has the effect of its chunk-level definition: the whole chunk appended,
then the loop, then the valve; n + 1 responses OK; nothing on TXD. -/
def Obligations.FeedHasItsChunkLevelMeaning : Prop :=
  ∀ (chunk : List Byte) (s : State), AtRest s.rb →
    let u := rxValve (rxLoop { s with rb := s.rb ++ chunk })
    ∃ t, exec (.feed chunk) s = .next t ∧ t.rb = u.rb ∧ evtTrace t = evtTrace u ∧
      rspTrace t = rspTrace s ++ List.replicate (chunk.length + 1) [0x00] ∧ txdTrace t = txdTrace s ∧
      t.pending = s.pending ∧ t.ret = s.ret

/-- R158: a stream delivered in chunks, none of whose EOCs but the last finds more than 100 bytes, gives the same
events and the same RB as in one chunk. -/
def Obligations.ChunkingIsInvisibleBelowTheWatermark : Prop :=
  ∀ (chunks : List (List Byte)) (s : State), chunks ≠ [] → AtRest s.rb → Quiet chunks s →
    ∃ t u, feedAll chunks s = .next t ∧ exec (.feed chunks.flatten) s = .next u ∧ t.rb = u.rb ∧
      evtTrace t = evtTrace u

/-- R155: a valid frame fed into an empty RB in two chunks, split after k bytes, is delivered when k ≤ 100; when
k > 100 the first EOC flushes those k bytes with OVFL, and a tail without sync byte is then discarded byte by byte. -/
def Obligations.SplitFrameSurvivesUpToTheWatermark : Prop :=
  ∀ (h1 h2 h3 h4 : Byte) (data opt : List Byte) (k : Nat) (s : State),
    data.length = h1.toNat * 256 + h2.toNat → opt.length = h3.toNat → s.rb = [] →
    let f := frameBytes h1 h2 h3 h4 data opt (checksum (data ++ opt))
    1 ≤ k → k < f.length →
    ∃ t u, exec (.feed (f.take k)) s = .next t ∧ exec (.feed (f.drop k)) t = .next u ∧
      (k ≤ 100 → t.rb = f.take k ∧ evtTrace t = evtTrace s ∧ u.rb = [] ∧
        evtTrace u = evtTrace s ++ [[0x10, h4, h1, h2, h3] ++ data ++ opt]) ∧
      (100 < k → t.rb = [] ∧ evtTrace t = evtTrace s ++ [ovflBytes k] ∧
        (0x55 ∉ f.drop k → u.rb = [] ∧ evtTrace u = evtTrace t ++ (f.drop k).map fun b => [0x01, b]))

/-- R156 (a), R143: noise without a sync byte in front of a valid frame is discarded byte by byte, whatever its
length, and the frame is delivered. -/
def Obligations.NoiseBeforeAFrameIsDiscarded : Prop :=
  ∀ (noise : List Byte) (h1 h2 h3 h4 : Byte) (data opt : List Byte) (s : State),
    0x55 ∉ noise → data.length = h1.toNat * 256 + h2.toNat → opt.length = h3.toNat → s.rb = [] →
    ∃ t, exec (.feed (noise ++ frameBytes h1 h2 h3 h4 data opt (checksum (data ++ opt)))) s = .next t ∧ t.rb = [] ∧
      evtTrace t = evtTrace s ++ noise.map (fun b => [0x01, b]) ++ [[0x10, h4, h1, h2, h3] ++ data ++ opt]

/-- R156 (b): an extra sync byte in front of a valid frame slips when the spurious header's checksum is not the frame's
type, and the frame is delivered; when it is, the block takes the spurious header and waits with nothing delivered
(the whole being at most 100 bytes, so that the EOC does not flush it). -/
def Obligations.ExtraSyncByteSlipsOrSwallowsTheFrame : Prop :=
  ∀ (h1 h2 h3 h4 : Byte) (data opt : List Byte) (s : State),
    data.length = h1.toNat * 256 + h2.toNat → opt.length = h3.toNat → s.rb = [] →
    let f := frameBytes h1 h2 h3 h4 data opt (checksum (data ++ opt))
    ∃ t, exec (.feed (0x55 :: f)) s = .next t ∧
      (checksum [0x55, h1, h2, h3] ≠ h4 → t.rb = [] ∧
        evtTrace t = evtTrace s ++ [[0x02, 0x55, h1, h2, h3, h4, checksum [0x55, h1, h2, h3]],
          [0x10, h4, h1, h2, h3] ++ data ++ opt]) ∧
      (checksum [0x55, h1, h2, h3] = h4 → f.length < 100 → t.rb = 0x55 :: f ∧ evtTrace t = evtTrace s)
end

