-- ==== Sys2Proof/Laws/Config.lean ====
section
/-! SUPPORT. The values that 00_scope.md R6 gives the computed parameters, each once, so that no proof unfolds them. -/

namespace Sys2Proof.Config

@[simp] theorem hckOff_eq : hckOff = 5 := rfl

@[simp] theorem dataOff_eq : dataOff = 6 := rfl

@[simp] theorem minFrame_eq : minFrame = 7 := rfl

@[simp] theorem maxData_eq : maxData = 65535 := rfl

@[simp] theorem maxOpt_eq : maxOpt = 255 := rfl

@[simp] theorem maxFrame_eq : maxFrame = 65797 := rfl

@[simp] theorem bufCap_eq : bufCap = 65797 := rfl

theorem ckXor_eq : ckXor = 0x8380 := by decide

end Sys2Proof.Config
end

