-- ==== Sys2Proof/Laws/Bytes.lean ====
section
/-! SUPPORT. Byte order, slices and reads: the small lemmas of Decode.lean's helpers and of `readAt`. -/

namespace Sys2Proof

/-! ### Byte order -/

theorem be16_toNat (hi lo : Byte) : (be16 hi lo).toNat = hi.toNat * 256 + lo.toNat := by
  have h1 := hi.isLt; have h0 := lo.isLt
  have e1 : (hi.setWidth 16 <<< 8).toNat = hi.toNat <<< 8 := by
    rw [BitVec.toNat_shiftLeft, BitVec.toNat_setWidth, Nat.shiftLeft_eq, Nat.shiftLeft_eq]; omega
  have e0 : (lo.setWidth 16).toNat = lo.toNat := by rw [BitVec.toNat_setWidth]; omega
  unfold be16
  rw [BitVec.toNat_or, e1, e0, ← Nat.shiftLeft_add_eq_or_of_lt (i := 8) (by omega), Nat.shiftLeft_eq]

theorem be32_toNat (b3 b2 b1 b0 : Byte) :
    (be32 b3 b2 b1 b0).toNat = b3.toNat * 2 ^ 24 + b2.toNat * 2 ^ 16 + b1.toNat * 2 ^ 8 + b0.toNat := by
  have h3 := b3.isLt; have h2 := b2.isLt; have h1 := b1.isLt; have h0 := b0.isLt
  have e3 : (b3.setWidth 32 <<< 24).toNat = b3.toNat <<< 24 := by
    rw [BitVec.toNat_shiftLeft, BitVec.toNat_setWidth, Nat.shiftLeft_eq, Nat.shiftLeft_eq]; omega
  have e2 : (b2.setWidth 32 <<< 16).toNat = b2.toNat <<< 16 := by
    rw [BitVec.toNat_shiftLeft, BitVec.toNat_setWidth, Nat.shiftLeft_eq, Nat.shiftLeft_eq]; omega
  have e1 : (b1.setWidth 32 <<< 8).toNat = b1.toNat <<< 8 := by
    rw [BitVec.toNat_shiftLeft, BitVec.toNat_setWidth, Nat.shiftLeft_eq, Nat.shiftLeft_eq]; omega
  have e0 : (b0.setWidth 32).toNat = b0.toNat := by rw [BitVec.toNat_setWidth]; omega
  unfold be32
  rw [BitVec.toNat_or, BitVec.toNat_or, BitVec.toNat_or, e3, e2, e1, e0, Nat.or_assoc, Nat.or_assoc,
    ← Nat.shiftLeft_add_eq_or_of_lt (b := b0.toNat) (i := 8) (by omega),
    ← Nat.shiftLeft_add_eq_or_of_lt (i := 16) (by rw [Nat.shiftLeft_eq]; omega),
    ← Nat.shiftLeft_add_eq_or_of_lt (i := 24) (by rw [Nat.shiftLeft_eq, Nat.shiftLeft_eq]; omega)]
  simp only [Nat.shiftLeft_eq]
  omega

theorem bytes16_eq (v : BitVec 16) :
    bytes16 v = [BitVec.ofNat 8 (v.toNat / 256), BitVec.ofNat 8 v.toNat] := by
  unfold bytes16
  congr 1
  · apply BitVec.eq_of_toNat_eq
    simp [BitVec.toNat_ushiftRight, Nat.shiftRight_eq_div_pow]

theorem bytes32_eq (v : BitVec 32) :
    bytes32 v = [BitVec.ofNat 8 (v.toNat / 2 ^ 24), BitVec.ofNat 8 (v.toNat / 2 ^ 16),
      BitVec.ofNat 8 (v.toNat / 2 ^ 8), BitVec.ofNat 8 v.toNat] := by
  unfold bytes32
  congr 1
  · apply BitVec.eq_of_toNat_eq
    simp [BitVec.toNat_ushiftRight, Nat.shiftRight_eq_div_pow]
  congr 1
  · apply BitVec.eq_of_toNat_eq
    simp [BitVec.toNat_ushiftRight, Nat.shiftRight_eq_div_pow]
  congr 1
  · apply BitVec.eq_of_toNat_eq
    simp [BitVec.toNat_ushiftRight, Nat.shiftRight_eq_div_pow]

@[simp] theorem bytes16_length (v : BitVec 16) : (bytes16 v).length = 2 := rfl
@[simp] theorem bytes32_length (v : BitVec 32) : (bytes32 v).length = 4 := rfl

theorem bytes16_be16 (hi lo : Byte) : bytes16 (be16 hi lo) = [hi, lo] := by
  have h1 := hi.isLt; have h0 := lo.isLt
  rw [bytes16_eq, be16_toNat]
  congr 1
  · apply BitVec.eq_of_toNat_eq; rw [BitVec.toNat_ofNat]; omega
  congr 1
  · apply BitVec.eq_of_toNat_eq; rw [BitVec.toNat_ofNat]; omega

theorem bytes32_be32 (b3 b2 b1 b0 : Byte) : bytes32 (be32 b3 b2 b1 b0) = [b3, b2, b1, b0] := by
  have h3 := b3.isLt; have h2 := b2.isLt; have h1 := b1.isLt; have h0 := b0.isLt
  rw [bytes32_eq, be32_toNat]
  congr 1
  · apply BitVec.eq_of_toNat_eq; rw [BitVec.toNat_ofNat]; omega
  congr 1
  · apply BitVec.eq_of_toNat_eq; rw [BitVec.toNat_ofNat]; omega
  congr 1
  · apply BitVec.eq_of_toNat_eq; rw [BitVec.toNat_ofNat]; omega
  congr 1
  · apply BitVec.eq_of_toNat_eq; rw [BitVec.toNat_ofNat]; omega

theorem be16_bytes16 (v : BitVec 16) : be16 ((v >>> 8).setWidth 8) (v.setWidth 8) = v := by
  apply BitVec.eq_of_toNat_eq
  have := v.isLt
  rw [be16_toNat, BitVec.toNat_setWidth, BitVec.toNat_setWidth, BitVec.toNat_ushiftRight, Nat.shiftRight_eq_div_pow]
  omega

theorem be32_bytes32 (v : BitVec 32) :
    be32 ((v >>> 24).setWidth 8) ((v >>> 16).setWidth 8) ((v >>> 8).setWidth 8) (v.setWidth 8) = v := by
  apply BitVec.eq_of_toNat_eq
  have := v.isLt
  rw [be32_toNat]
  simp only [BitVec.toNat_setWidth, BitVec.toNat_ushiftRight, Nat.shiftRight_eq_div_pow]
  omega

/-! ### Slices (R10) -/

@[simp] theorem slice_length (s : List Byte) (a b : Nat) : (slice s a b).length = min (b - a) (s.length - a) := by
  simp [slice]

theorem slice_append_left {s : List Byte} (c : List Byte) {a b : Nat} (h : b ≤ s.length) :
    slice (s ++ c) a b = slice s a b := by
  unfold slice
  by_cases ha : a ≤ s.length
  · rw [List.drop_append_of_le_length ha, List.take_append_of_le_length (by simp; omega)]
  · have : b - a = 0 := by omega
    simp [this]

@[simp] theorem slice_zero (s : List Byte) (b : Nat) : slice s 0 b = s.take b := by simp [slice]

end Sys2Proof

namespace Sys2Proof.Machine

/-! ### Reads -/

theorem readAt_eq_getElem {s : List Byte} {i : Nat} (h : i < s.length) : readAt s i = s[i] := by
  simp [readAt, h]

theorem readAt_append_left {s : List Byte} (c : List Byte) {i : Nat} (h : i < s.length) :
    readAt (s ++ c) i = readAt s i := by
  unfold readAt
  rw [List.getElem?_append_left h]

theorem readAt_append_right {s : List Byte} (c : List Byte) {i : Nat} (h : s.length ≤ i) (h2 : i < s.length + c.length) :
    readAt (s ++ c) i = readAt c (i - s.length) := by
  have hc : i - s.length < c.length := by omega
  rw [readAt_eq_getElem hc, readAt_eq_getElem (by simp; omega), List.getElem_append_right h]

@[simp] theorem readAt_cons_zero (b : Byte) (s : List Byte) : readAt (b :: s) 0 = b := rfl

@[simp] theorem readAt_cons_succ_of_lt {b : Byte} {s : List Byte} {i : Nat} (h : i < s.length) :
    readAt (b :: s) (i + 1) = readAt s i := by
  simp [readAt, h]

/-! ### Frame lengths (R72) -/

theorem totalOf_toNat (len : Len) (opt : Opt) : (totalOf len opt).toNat = 7 + len.toNat + opt.toNat := by
  have h1 := len.isLt; have h2 := opt.isLt
  simp only [Config.lenW, Config.optW] at h1 h2
  simp only [totalOf, Config.totalW, Config.minFrame_eq, BitVec.toNat_add, BitVec.toNat_setWidth, BitVec.toNat_ofNat]
  omega

theorem frameTotal_eq (s : List Byte) :
    frameTotal s = 7 + ((readAt s 1).toNat * 256 + (readAt s 2).toNat) + (readAt s 3).toNat := by
  rw [frameTotal, totalOf_toNat, lenField, be16_toNat, optField]

theorem frameTotal_ge (s : List Byte) : 7 ≤ frameTotal s := by rw [frameTotal_eq]; omega

theorem frameTotal_le (s : List Byte) : frameTotal s ≤ 65797 := by
  have h1 := (readAt s 1).isLt; have h2 := (readAt s 2).isLt; have h3 := (readAt s 3).isLt
  rw [frameTotal_eq]; omega

end Sys2Proof.Machine
end

