-- ==== Sys2Proof/Laws/State.lean ====
section
/-! SUPPORT. What each named operation does to each field of the state, one lemma per field per operation. -/

namespace Sys2Proof.Machine

/-! ### bufAppend -/

@[simp] theorem bufAppend_rb (b : Byte) (s : State) : (bufAppend b s).rb = s.rb ++ [b] := rfl
@[simp] theorem bufAppend_wr (b : Byte) (s : State) : (bufAppend b s).wr = s.wr := rfl
@[simp] theorem bufAppend_out (b : Byte) (s : State) : (bufAppend b s).out = s.out := rfl
@[simp] theorem bufAppend_pending (b : Byte) (s : State) : (bufAppend b s).pending = s.pending := rfl
@[simp] theorem bufAppend_ret (b : Byte) (s : State) : (bufAppend b s).ret = s.ret := rfl
@[simp] theorem bufAppend_freeCount (b : Byte) (s : State) : (bufAppend b s).freeCount = s.freeCount := rfl

/-! ### bufDrop -/

@[simp] theorem bufDrop_rb (k : Nat) (s : State) : (bufDrop k s).rb = s.rb.drop k := rfl
@[simp] theorem bufDrop_wr (k : Nat) (s : State) : (bufDrop k s).wr = s.wr := rfl
@[simp] theorem bufDrop_out (k : Nat) (s : State) : (bufDrop k s).out = s.out := rfl
@[simp] theorem bufDrop_pending (k : Nat) (s : State) : (bufDrop k s).pending = s.pending := rfl
@[simp] theorem bufDrop_ret (k : Nat) (s : State) : (bufDrop k s).ret = s.ret := rfl
@[simp] theorem bufDrop_freeCount (k : Nat) (s : State) : (bufDrop k s).freeCount = s.freeCount := rfl

/-! ### bufClear -/

@[simp] theorem bufClear_rb (s : State) : (bufClear s).rb = [] := rfl
@[simp] theorem bufClear_wr (s : State) : (bufClear s).wr = s.wr := rfl
@[simp] theorem bufClear_out (s : State) : (bufClear s).out = s.out := rfl
@[simp] theorem bufClear_pending (s : State) : (bufClear s).pending = s.pending := rfl
@[simp] theorem bufClear_ret (s : State) : (bufClear s).ret = s.ret := rfl
@[simp] theorem bufClear_freeCount (s : State) : (bufClear s).freeCount = s.freeCount := rfl

/-! ### emit -/

@[simp] theorem emit_rb (o : Output) (s : State) : (emit o s).rb = s.rb := rfl
@[simp] theorem emit_wr (o : Output) (s : State) : (emit o s).wr = s.wr := rfl
@[simp] theorem emit_out (o : Output) (s : State) : (emit o s).out = s.out ++ [o] := rfl
@[simp] theorem emit_pending (o : Output) (s : State) : (emit o s).pending = s.pending := rfl
@[simp] theorem emit_ret (o : Output) (s : State) : (emit o s).ret = s.ret := rfl
@[simp] theorem emit_freeCount (o : Output) (s : State) : (emit o s).freeCount = s.freeCount := rfl

/-! ### emitEvt -/

@[simp] theorem emitEvt_rb (e : Event) (s : State) : (emitEvt e s).rb = s.rb := rfl
@[simp] theorem emitEvt_wr (e : Event) (s : State) : (emitEvt e s).wr = s.wr := rfl
@[simp] theorem emitEvt_out (e : Event) (s : State) : (emitEvt e s).out = s.out ++ [.evt (eventBytes e)] := rfl
@[simp] theorem emitEvt_pending (e : Event) (s : State) : (emitEvt e s).pending = s.pending := rfl
@[simp] theorem emitEvt_ret (e : Event) (s : State) : (emitEvt e s).ret = s.ret := rfl
@[simp] theorem emitEvt_freeCount (e : Event) (s : State) : (emitEvt e s).freeCount = s.freeCount := rfl

/-! ### emitTxd -/

@[simp] theorem emitTxd_rb (f : List Byte) (s : State) : (emitTxd f s).rb = s.rb := rfl
@[simp] theorem emitTxd_wr (f : List Byte) (s : State) : (emitTxd f s).wr = s.wr := rfl
@[simp] theorem emitTxd_out (f : List Byte) (s : State) : (emitTxd f s).out = s.out ++ [.txd f] := rfl
@[simp] theorem emitTxd_pending (f : List Byte) (s : State) : (emitTxd f s).pending = s.pending := rfl
@[simp] theorem emitTxd_ret (f : List Byte) (s : State) : (emitTxd f s).ret = s.ret := rfl
@[simp] theorem emitTxd_freeCount (f : List Byte) (s : State) : (emitTxd f s).freeCount = s.freeCount := rfl

/-! ### respond -/

@[simp] theorem respond_rb (r : Response) (s : State) : (respond r s).rb = s.rb := rfl
@[simp] theorem respond_wr (r : Response) (s : State) : (respond r s).wr = s.wr := rfl
@[simp] theorem respond_out (r : Response) (s : State) : (respond r s).out = s.out ++ [.rsp (responseBytes r)] := rfl
@[simp] theorem respond_pending (r : Response) (s : State) : (respond r s).pending = s.pending := rfl
@[simp] theorem respond_ret (r : Response) (s : State) : (respond r s).ret = s.ret := rfl
@[simp] theorem respond_freeCount (r : Response) (s : State) : (respond r s).freeCount = s.freeCount := rfl

/-! ### release -/

@[simp] theorem release_rb (s : State) : (release s).rb = s.rb := rfl
@[simp] theorem release_wr (s : State) : (release s).wr = freeRegs s.freeCount := rfl
@[simp] theorem release_out (s : State) : (release s).out = s.out := rfl
@[simp] theorem release_pending (s : State) : (release s).pending = s.pending := rfl
@[simp] theorem release_ret (s : State) : (release s).ret = s.ret := rfl
@[simp] theorem release_freeCount (s : State) : (release s).freeCount = s.freeCount + 1 := rfl

/-! ### The three traces as views of the outputs (R37) -/

@[simp] theorem rspOf_rsp (t : List Byte) : rspOf (.rsp t) = some t := rfl
@[simp] theorem rspOf_evt (t : List Byte) : rspOf (.evt t) = none := rfl
@[simp] theorem rspOf_txd (t : List Byte) : rspOf (.txd t) = none := rfl
@[simp] theorem evtOf_rsp (t : List Byte) : evtOf (.rsp t) = none := rfl
@[simp] theorem evtOf_evt (t : List Byte) : evtOf (.evt t) = some t := rfl
@[simp] theorem evtOf_txd (t : List Byte) : evtOf (.txd t) = none := rfl
@[simp] theorem txdOf_rsp (t : List Byte) : txdOf (.rsp t) = none := rfl
@[simp] theorem txdOf_evt (t : List Byte) : txdOf (.evt t) = none := rfl
@[simp] theorem txdOf_txd (t : List Byte) : txdOf (.txd t) = some t := rfl

/-- A list of events shows whole on EVT. -/
@[simp] theorem filterMap_evtOf_map_evt (l : List (List Byte)) : (l.map Output.evt).filterMap evtOf = l := by
  induction l with
  | nil => rfl
  | cons a l ih => simp only [List.map_cons, List.filterMap_cons, evtOf_evt, ih]

/-- A list of events shows nothing on RSP. -/
@[simp] theorem filterMap_rspOf_map_evt (l : List (List Byte)) : (l.map Output.evt).filterMap rspOf = [] := by
  induction l with
  | nil => rfl
  | cons a l ih => simp only [List.map_cons, List.filterMap_cons, rspOf_evt, ih]

/-- A list of events shows nothing on TXD. -/
@[simp] theorem filterMap_txdOf_map_evt (l : List (List Byte)) : (l.map Output.evt).filterMap txdOf = [] := by
  induction l with
  | nil => rfl
  | cons a l ih => simp only [List.map_cons, List.filterMap_cons, txdOf_evt, ih]

/-! ### The traces after each operation -/

@[simp] theorem evtTrace_bufAppend (b : Byte) (s : State) : evtTrace (bufAppend b s) = evtTrace s := rfl
@[simp] theorem evtTrace_bufDrop (k : Nat) (s : State) : evtTrace (bufDrop k s) = evtTrace s := rfl
@[simp] theorem evtTrace_bufClear (s : State) : evtTrace (bufClear s) = evtTrace s := rfl
@[simp] theorem evtTrace_emitEvt (e : Event) (s : State) : evtTrace (emitEvt e s) = evtTrace s ++ [eventBytes e] := by
  simp [evtTrace]
@[simp] theorem evtTrace_emitTxd (f : List Byte) (s : State) : evtTrace (emitTxd f s) = evtTrace s := by
  simp [evtTrace, List.filterMap_cons]
@[simp] theorem evtTrace_respond (r : Response) (s : State) : evtTrace (respond r s) = evtTrace s := by
  simp [evtTrace, List.filterMap_cons]
@[simp] theorem evtTrace_release (s : State) : evtTrace (release s) = evtTrace s := rfl
@[simp] theorem txdTrace_bufAppend (b : Byte) (s : State) : txdTrace (bufAppend b s) = txdTrace s := rfl
@[simp] theorem txdTrace_bufDrop (k : Nat) (s : State) : txdTrace (bufDrop k s) = txdTrace s := rfl
@[simp] theorem txdTrace_bufClear (s : State) : txdTrace (bufClear s) = txdTrace s := rfl
@[simp] theorem txdTrace_emitEvt (e : Event) (s : State) : txdTrace (emitEvt e s) = txdTrace s := by
  simp [txdTrace, List.filterMap_cons]
@[simp] theorem txdTrace_emitTxd (f : List Byte) (s : State) : txdTrace (emitTxd f s) = txdTrace s ++ [f] := by
  simp [txdTrace]
@[simp] theorem txdTrace_respond (r : Response) (s : State) : txdTrace (respond r s) = txdTrace s := by
  simp [txdTrace, List.filterMap_cons]
@[simp] theorem txdTrace_release (s : State) : txdTrace (release s) = txdTrace s := rfl
@[simp] theorem rspTrace_bufAppend (b : Byte) (s : State) : rspTrace (bufAppend b s) = rspTrace s := rfl
@[simp] theorem rspTrace_bufDrop (k : Nat) (s : State) : rspTrace (bufDrop k s) = rspTrace s := rfl
@[simp] theorem rspTrace_bufClear (s : State) : rspTrace (bufClear s) = rspTrace s := rfl
@[simp] theorem rspTrace_emitEvt (e : Event) (s : State) : rspTrace (emitEvt e s) = rspTrace s := by
  simp [rspTrace, List.filterMap_cons]
@[simp] theorem rspTrace_emitTxd (f : List Byte) (s : State) : rspTrace (emitTxd f s) = rspTrace s := by
  simp [rspTrace, List.filterMap_cons]
@[simp] theorem rspTrace_respond (r : Response) (s : State) : rspTrace (respond r s) = rspTrace s ++ [responseBytes r] := by
  simp [rspTrace]
@[simp] theorem rspTrace_release (s : State) : rspTrace (release s) = rspTrace s := rfl

/-- The EVT trace after a list of events. -/
theorem evtTrace_of_events {s t : State} {evs : List (List Byte)} (h : t.out = s.out ++ evs.map Output.evt) :
    evtTrace t = evtTrace s ++ evs := by
  rw [evtTrace, evtTrace, h, List.filterMap_append, filterMap_evtOf_map_evt]

/-- The RSP trace after a list of events. -/
theorem rspTrace_of_events {s t : State} {evs : List (List Byte)} (h : t.out = s.out ++ evs.map Output.evt) :
    rspTrace t = rspTrace s := by
  rw [rspTrace, rspTrace, h, List.filterMap_append, filterMap_rspOf_map_evt, List.append_nil]

/-- The TXD trace after a list of events. -/
theorem txdTrace_of_events {s t : State} {evs : List (List Byte)} (h : t.out = s.out ++ evs.map Output.evt) :
    txdTrace t = txdTrace s := by
  rw [txdTrace, txdTrace, h, List.filterMap_append, filterMap_txdOf_map_evt, List.append_nil]

end Sys2Proof.Machine
end

