-- ==== Sys2Proof/Laws/Rx.lean ====
section
/-! SUPPORT. Once for each shared operation of the reassembler, everything it can do: the selection, one turn of the
loop, the loop, the valve. -/

namespace Sys2Proof.Machine

/-! ### The selection (R142) -/

/-- The working registers once RX_SELECT has read the header of `rb` (R142, R105). -/
def headerRegs (rb : Buffer) (w : WorkRegs) : WorkRegs :=
  { w with len := lenField rb, opt := optField rb, acc := checksumAcc (headerOf rb), hck := checksum (headerOf rb) }

/-- The working registers once RX_SELECT knows the frame's length (R142). -/
def totalRegs (rb : Buffer) (w : WorkRegs) : WorkRegs :=
  { headerRegs rb w with total := totalOf (lenField rb) (optField rb) }

/-- The working registers once RX_SELECT has checked the payload of `rb` (R142, R106). -/
def payloadRegs (rb : Buffer) (w : WorkRegs) : WorkRegs :=
  { totalRegs rb w with acc := checksumAcc (payloadOf rb (frameTotal rb)),
                        pck := checksum (payloadOf rb (frameTotal rb)) }

/-- RX_SELECT, its conditions on RB alone and its registers written out. -/
theorem rxSelect_eq (rb : Buffer) (w : WorkRegs) :
    rxSelect rb w =
      if 1 ≤ rb.length ∧ readAt rb 0 ≠ Config.sync then (.discard, w)
      else if rb.length < Config.minFrame then (.waitHeader, w)
      else if ¬ HeaderOk rb then (.hdrSlip, headerRegs rb w)
      else if rb.length < frameTotal rb then (.waitPayload, totalRegs rb w)
      else if PayloadOk rb (frameTotal rb) then (.deliver, payloadRegs rb w)
      else (.dropFrame, payloadRegs rb w) := rfl

/-- RX_SELECT's action as a decision on RB alone, the working registers left out. -/
theorem rxSelect_action (rb : Buffer) (w : WorkRegs) :
    (rxSelect rb w).1 =
      if 1 ≤ rb.length ∧ readAt rb 0 ≠ Config.sync then .discard
      else if rb.length < Config.minFrame then .waitHeader
      else if ¬ HeaderOk rb then .hdrSlip
      else if rb.length < frameTotal rb then .waitPayload
      else if PayloadOk rb (frameTotal rb) then .deliver
      else .dropFrame := by
  rw [rxSelect_eq]
  simp only [apply_ite Prod.fst]

/-- The working registers have no part in the selection (R142, R24). -/
theorem rxSelect_action_indep (rb : Buffer) (w w' : WorkRegs) : (rxSelect rb w).1 = (rxSelect rb w').1 := by
  rw [rxSelect_action, rxSelect_action]

/-- What the selection leaves in the working registers, by the action it picks (R142). -/
theorem rxSelect_regs (rb : Buffer) (w : WorkRegs) :
    (rxSelect rb w).2 =
      match (rxSelect rb w).1 with
      | .discard => w
      | .waitHeader => w
      | .hdrSlip => headerRegs rb w
      | .waitPayload => totalRegs rb w
      | .deliver => payloadRegs rb w
      | .dropFrame => payloadRegs rb w := by
  rw [rxSelect_eq]
  by_cases c1 : 1 ≤ rb.length ∧ readAt rb 0 ≠ Config.sync
  · rw [if_pos c1]
  rw [if_neg c1]
  by_cases c2 : rb.length < Config.minFrame
  · rw [if_pos c2]
  rw [if_neg c2]
  by_cases c3 : ¬ HeaderOk rb
  · rw [if_pos c3]
  rw [if_neg c3]
  by_cases c4 : rb.length < frameTotal rb
  · rw [if_pos c4]
  rw [if_neg c4]
  by_cases c5 : PayloadOk rb (frameTotal rb)
  · rw [if_pos c5]
  · rw [if_neg c5]

/-! ### One turn of the loop -/

/-- How many bytes a turn takes from the front of `rb` (R143 to R148). -/
def turnDrop (rb : Buffer) : RxAction → Nat
  | .discard => 1
  | .waitHeader => 0
  | .hdrSlip => 1
  | .waitPayload => 0
  | .deliver => frameTotal rb
  | .dropFrame => frameTotal rb

/-- The packet of the frame at the front of `rb` (R125, R147). -/
def frontPacket (rb : Buffer) : Packet :=
  (decodePacket (rb.take (frameTotal rb)) WorkRegs.reset).1

/-- The events a turn emits (R143 to R148). -/
def turnEvents (rb : Buffer) : RxAction → List (List Byte)
  | .discard => [eventBytes (.unexp (readAt rb 0))]
  | .waitHeader => []
  | .hdrSlip => [eventBytes (.hdrBad (readAt rb 1) (readAt rb 2) (readAt rb 3) (readAt rb 4) (readAt rb Config.hckOff)
      (checksum (headerOf rb)))]
  | .waitPayload => []
  | .deliver => [eventBytes (.pkt (frontPacket rb))]
  | .dropFrame => [eventBytes (.payBad (readAt rb 4) (lenField rb) (optField rb) (readAt rb (frameTotal rb - 1))
      (checksum (payloadOf rb (frameTotal rb))))]

/-- Everything one turn does: RB loses a front part, the turn's events are emitted, nothing else but the working
registers changes. -/
theorem rxTurn_spec (s : State) :
    (rxTurn s).rb = s.rb.drop (turnDrop s.rb (selected s)) ∧
    (rxTurn s).out = s.out ++ (turnEvents s.rb (selected s)).map Output.evt ∧
    (rxTurn s).pending = s.pending ∧ (rxTurn s).ret = s.ret := by
  have hr := rxSelect_regs s.rb s.wr
  unfold rxTurn selected
  revert hr
  generalize rxSelect s.rb s.wr = r
  obtain ⟨a, w⟩ := r
  intro hr
  simp only at hr
  subst hr
  cases a with
  | discard => exact ⟨rfl, rfl, rfl, rfl⟩
  | waitHeader => exact ⟨rfl, (List.append_nil _).symm, rfl, rfl⟩
  | waitPayload => exact ⟨rfl, (List.append_nil _).symm, rfl, rfl⟩
  | hdrSlip => exact ⟨rfl, rfl, rfl, rfl⟩
  | deliver => exact ⟨rfl, rfl, rfl, rfl⟩
  | dropFrame => exact ⟨rfl, rfl, rfl, rfl⟩

theorem selected_eq (s : State) : selected s =
      if 1 ≤ s.rb.length ∧ readAt s.rb 0 ≠ Config.sync then .discard
      else if s.rb.length < Config.minFrame then .waitHeader
      else if ¬ HeaderOk s.rb then .hdrSlip
      else if s.rb.length < frameTotal s.rb then .waitPayload
      else if PayloadOk s.rb (frameTotal s.rb) then .deliver
      else .dropFrame := rxSelect_action _ _

/-- The selection depends on RB alone. -/
theorem selected_congr {s t : State} (h : s.rb = t.rb) : selected s = selected t := by
  rw [selected_eq, selected_eq, h]

/-- A stop action is selected exactly where RB is at rest (R154 (a)). -/
theorem isStop_selected_iff (s : State) : isStop (selected s) = true ↔ AtRest s.rb := by
  rw [selected_eq]
  generalize s.rb = rb
  have hnil : rb = [] ↔ ¬ 1 ≤ rb.length := by rw [← List.length_eq_zero_iff]; omega
  unfold AtRest
  by_cases c1 : 1 ≤ rb.length ∧ readAt rb 0 ≠ Config.sync
  · rw [if_pos c1]
    simp only [isStop, Bool.false_eq_true, false_iff, hnil]
    tauto
  rw [if_neg c1]
  by_cases c2 : rb.length < Config.minFrame
  · rw [if_pos c2]
    have h : 1 ≤ rb.length → readAt rb 0 = Config.sync := fun h => not_not.1 fun h2 => c1 ⟨h, h2⟩
    simp only [isStop, c2, true_or, and_true, true_iff, hnil]
    tauto
  rw [if_neg c2]
  have hlen : 7 ≤ rb.length := by simpa using c2
  have h1 : 1 ≤ rb.length := by omega
  have h0 : readAt rb 0 = Config.sync := not_not.1 fun h2 => c1 ⟨h1, h2⟩
  by_cases c3 : HeaderOk rb
  · rw [if_neg (not_not.2 c3)]
    by_cases c4 : rb.length < frameTotal rb
    · rw [if_pos c4]
      exact ⟨fun _ => .inr ⟨h1, h0, .inr ⟨c3, c4⟩⟩, fun _ => rfl⟩
    · rw [if_neg c4]
      have e : ∀ x : Bool, x = false → (x = true ↔ rb = [] ∨ (1 ≤ rb.length ∧ readAt rb 0 = Config.sync ∧
          (rb.length < Config.minFrame ∨ (HeaderOk rb ∧ rb.length < frameTotal rb)))) := by
        intro x hx
        subst hx
        simp only [Bool.false_eq_true, false_iff, hnil]
        tauto
      apply e
      by_cases c5 : PayloadOk rb (frameTotal rb)
      · rw [if_pos c5]; rfl
      · rw [if_neg c5]; rfl
  · rw [if_pos c3]
    simp only [isStop, Bool.false_eq_true, false_iff, hnil]
    tauto

/-- A stop takes no byte and emits nothing (R144, R146). -/
theorem rxTurn_of_stop {s : State} (h : isStop (selected s) = true) : (rxTurn s).rb = s.rb ∧ (rxTurn s).out = s.out := by
  obtain ⟨h1, h2, -, -⟩ := rxTurn_spec s
  cases ha : selected s <;> simp_all [isStop, turnDrop, turnEvents]

/-- Any other action takes at least one byte and at most what RB holds (R150). -/
theorem turnDrop_of_not_stop {s : State} (h : isStop (selected s) = false) :
    1 ≤ turnDrop s.rb (selected s) ∧ turnDrop s.rb (selected s) ≤ s.rb.length := by
  have hs := selected_eq s
  have ht := frameTotal_ge s.rb
  by_cases c1 : 1 ≤ s.rb.length ∧ readAt s.rb 0 ≠ Config.sync
  · rw [if_pos c1] at hs; rw [hs]; exact ⟨le_refl 1, c1.1⟩
  rw [if_neg c1] at hs
  by_cases c2 : s.rb.length < Config.minFrame
  · rw [if_pos c2] at hs; rw [hs] at h; simp [isStop] at h
  rw [if_neg c2] at hs
  have hlen : 7 ≤ s.rb.length := by simpa using c2
  by_cases c3 : HeaderOk s.rb
  · rw [if_neg (not_not.2 c3)] at hs
    by_cases c4 : s.rb.length < frameTotal s.rb
    · rw [if_pos c4] at hs; rw [hs] at h; simp [isStop] at h
    · rw [if_neg c4] at hs
      by_cases c5 : PayloadOk s.rb (frameTotal s.rb)
      · rw [if_pos c5] at hs; rw [hs]; simp only [turnDrop]; omega
      · rw [if_neg c5] at hs; rw [hs]; simp only [turnDrop]; omega
  · rw [if_pos c3] at hs; rw [hs]; simp only [turnDrop]; omega

/-- RB gets shorter with every action that is no stop (R150). -/
theorem rxTurn_length_lt {s : State} (h : isStop (selected s) = false) : (rxTurn s).rb.length < s.rb.length := by
  have := turnDrop_of_not_stop h
  rw [(rxTurn_spec s).1, List.length_drop]
  omega

/-! ### The loop (R141) -/

/-- With more turns to spend than RB has bytes, the loop's outcome does not depend on how many. -/
theorem rxLoopFuel_enough : ∀ (n m : Nat) (s : State), s.rb.length < n → s.rb.length < m →
    rxLoopFuel n s = rxLoopFuel m s := by
  intro n
  induction n with
  | zero => intro m s h; omega
  | succ n ih =>
    intro m s hn hm
    cases m with
    | zero => omega
    | succ m =>
      simp only [rxLoopFuel]
      by_cases h : isStop (selected s) = true
      · rw [if_pos h, if_pos h]
      · have h' : isStop (selected s) = false := by simpa using h
        have := rxTurn_length_lt h'
        rw [if_neg h, if_neg h]
        exact ih m _ (by omega) (by omega)

/-- The loop, one turn at a time: a stop ends it, any other action is followed by the loop again (R141). -/
theorem rxLoop_eq (s : State) : rxLoop s = if isStop (selected s) then rxTurn s else rxLoop (rxTurn s) := by
  by_cases h : isStop (selected s) = true
  · simp [rxLoop, rxLoopFuel, h]
  · have h' : isStop (selected s) = false := by simpa using h
    have := rxTurn_length_lt h'
    have e : rxLoop s = rxLoopFuel s.rb.length (rxTurn s) := by simp [rxLoop, bufLen, rxLoopFuel, h']
    rw [e, if_neg h]
    exact rxLoopFuel_enough _ (bufLen (rxTurn s).rb + 1) _ this (Nat.lt_succ_self _)

/-- Induction along the loop: what holds of a turn that stops, and passes back over a turn that does not, holds of
every state. -/
theorem rxLoop_induction {P : State → Prop} (stop : ∀ s, isStop (selected s) = true → P s)
    (turn : ∀ s, isStop (selected s) = false → P (rxTurn s) → P s) (s : State) : P s := by
  generalize hn : s.rb.length = n
  induction n using Nat.strong_induction_on generalizing s with
  | _ n ih =>
    by_cases h : isStop (selected s) = true
    · exact stop s h
    · have h' : isStop (selected s) = false := by simpa using h
      exact turn s h' (ih _ (hn ▸ rxTurn_length_lt h') _ rfl)

/-- Everything the loop does: RB loses a front part and is left at rest, events alone are emitted, nothing else but the
working registers changes. -/
theorem rxLoop_spec (s : State) :
    ∃ (k : Nat) (evs : List (List Byte)), (rxLoop s).rb = s.rb.drop k ∧ AtRest (rxLoop s).rb ∧
      (rxLoop s).out = s.out ++ evs.map Output.evt ∧ (rxLoop s).pending = s.pending ∧ (rxLoop s).ret = s.ret := by
  induction s using rxLoop_induction with
  | stop s h =>
    obtain ⟨h1, h2⟩ := rxTurn_of_stop h
    obtain ⟨-, -, h3, h4⟩ := rxTurn_spec s
    rw [rxLoop_eq, if_pos h]
    exact ⟨0, [], by simpa using h1, h1 ▸ (isStop_selected_iff s).1 h, by simpa using h2, h3, h4⟩
  | turn s h ih =>
    obtain ⟨k, evs, i1, i2, i3, i4, i5⟩ := ih
    obtain ⟨t1, t2, t3, t4⟩ := rxTurn_spec s
    rw [rxLoop_eq, h]
    simp only [Bool.false_eq_true, if_false]
    refine ⟨turnDrop s.rb (selected s) + k, turnEvents s.rb (selected s) ++ evs, ?_, i2, ?_, i4.trans t3, i5.trans t4⟩
    · rw [i1, t1, List.drop_drop]
    · rw [i3, t2, List.map_append, List.append_assoc]

@[simp] theorem rxLoop_pending (s : State) : (rxLoop s).pending = s.pending := by
  obtain ⟨_, _, _, _, _, h, _⟩ := rxLoop_spec s; exact h

@[simp] theorem rxLoop_ret (s : State) : (rxLoop s).ret = s.ret := by
  obtain ⟨_, _, _, _, _, _, h⟩ := rxLoop_spec s; exact h

/-- The loop leaves RB at rest (R154 (a)). -/
theorem rxLoop_atRest (s : State) : AtRest (rxLoop s).rb := by
  obtain ⟨_, _, _, h, _⟩ := rxLoop_spec s; exact h

/-- The loop emits events alone. -/
theorem rxLoop_events (s : State) : ∃ evs : List (List Byte), (rxLoop s).out = s.out ++ evs.map Output.evt := by
  obtain ⟨_, e, _, _, h, _, _⟩ := rxLoop_spec s; exact ⟨e, h⟩

/-- A turn has no part in the host's pending moves. -/
theorem rxTurn_withPending (s : State) (p : List HostMove) :
    rxTurn { s with pending := p } = { rxTurn s with pending := p } := by
  unfold rxTurn
  simp only
  generalize rxSelect s.rb s.wr = r
  obtain ⟨a, w⟩ := r
  cases a <;> rfl

/-- The loop has no part in the host's pending moves. -/
theorem rxLoop_withPending (s : State) (p : List HostMove) :
    rxLoop { s with pending := p } = { rxLoop s with pending := p } := by
  induction s using rxLoop_induction with
  | stop s h =>
    have h' : isStop (selected { s with pending := p }) = true := h
    rw [rxLoop_eq, if_pos h', rxLoop_eq s, if_pos h, rxTurn_withPending]
  | turn s h ih =>
    have h' : isStop (selected { s with pending := p }) = false := h
    rw [rxLoop_eq, h', rxLoop_eq s, h, rxTurn_withPending]
    simpa using ih

/-- On an RB at rest the loop stops at once, RB and the outputs unchanged (R152, R157). -/
theorem rxLoop_of_rest {s : State} (h : AtRest s.rb) : (rxLoop s).rb = s.rb ∧ (rxLoop s).out = s.out := by
  have hs := (isStop_selected_iff s).2 h
  rw [rxLoop_eq, if_pos hs]
  exact rxTurn_of_stop hs

/-- At rest RB is shorter than the longest frame (R62). -/
theorem AtRest.length_lt {rb : Buffer} (h : AtRest rb) : rb.length < Config.maxFrame := by
  have := frameTotal_le rb
  simp only [AtRest, Config.minFrame_eq] at h
  simp only [Config.maxFrame_eq]
  rcases h with h | ⟨-, -, h | h⟩
  · simp [h]
  · omega
  · omega

/-! ### More bytes behind RB change no action already selected (R153) -/

/-- The length a header declares does not change when bytes are appended. -/
theorem frameTotal_append {rb : Buffer} (c : List Byte) (h : 7 ≤ rb.length) : frameTotal (rb ++ c) = frameTotal rb := by
  rw [frameTotal_eq, frameTotal_eq, readAt_append_left c (by omega), readAt_append_left c (by omega),
    readAt_append_left c (by omega)]

/-- Nor does the header check. -/
theorem headerOk_append {rb : Buffer} (c : List Byte) (h : 7 ≤ rb.length) : HeaderOk (rb ++ c) ↔ HeaderOk rb := by
  unfold HeaderOk headerOf
  rw [slice_append_left c (by simp; omega), readAt_append_left c (by simp; omega)]

/-- Nor does the payload of a frame that is there whole, or its checksum byte. -/
theorem payload_append {rb : Buffer} (c : List Byte) {n : Nat} (h : 1 ≤ n) (hn : n ≤ rb.length) :
    payloadOf (rb ++ c) n = payloadOf rb n ∧ readAt (rb ++ c) (n - 1) = readAt rb (n - 1) := by
  unfold payloadOf
  rw [slice_append_left c (by omega), readAt_append_left c (by omega)]
  exact ⟨rfl, rfl⟩

/-- A turn that is no stop is the same turn, with the same events, when more bytes stand behind RB. -/
theorem turn_append {s t : State} (c : List Byte) (ht : t.rb = s.rb ++ c) (h : isStop (selected s) = false) :
    selected t = selected s ∧ turnDrop t.rb (selected s) = turnDrop s.rb (selected s) ∧
    turnEvents t.rb (selected s) = turnEvents s.rb (selected s) := by
  have hs := selected_eq s
  have hs' := selected_eq t
  rw [ht] at hs' ⊢
  revert hs hs' h
  generalize selected s = a
  generalize selected t = a'
  generalize s.rb = rb
  intro h hs hs'
  by_cases c1 : 1 ≤ rb.length ∧ readAt rb 0 ≠ Config.sync
  · have h0 : readAt (rb ++ c) 0 = readAt rb 0 := readAt_append_left c (by omega)
    rw [if_pos c1] at hs
    rw [if_pos ⟨by simp; omega, h0 ▸ c1.2⟩] at hs'
    subst hs; subst hs'
    exact ⟨rfl, rfl, by simp [turnEvents, h0]⟩
  rw [if_neg c1] at hs
  by_cases c2 : rb.length < Config.minFrame
  · rw [if_pos c2] at hs; rw [hs] at h; simp [isStop] at h
  have h7 : 7 ≤ rb.length := by simpa using c2
  have hr : ∀ i, i < 7 → readAt (rb ++ c) i = readAt rb i := fun i hi => readAt_append_left c (by omega)
  rw [if_neg c2] at hs
  rw [if_neg (by rw [hr 0 (by omega)]; intro hh; exact c1 ⟨by omega, hh.2⟩),
    if_neg (by simp only [Config.minFrame_eq, List.length_append]; omega)] at hs'
  simp only [headerOk_append c h7, frameTotal_append c h7] at hs'
  have hhdr : headerOf (rb ++ c) = headerOf rb := slice_append_left c (by simp; omega)
  by_cases c3 : HeaderOk rb
  · rw [if_neg (not_not.2 c3)] at hs hs'
    by_cases c4 : rb.length < frameTotal rb
    · rw [if_pos c4] at hs; rw [hs] at h; simp [isStop] at h
    rw [if_neg c4] at hs
    rw [if_neg (by simp; omega)] at hs'
    have hT := frameTotal_ge rb
    obtain ⟨e1, e2⟩ := payload_append (rb := rb) c (n := frameTotal rb) (by omega) (by omega)
    have e3 : PayloadOk (rb ++ c) (frameTotal rb) ↔ PayloadOk rb (frameTotal rb) := by unfold PayloadOk; rw [e1, e2]
    by_cases c5 : PayloadOk rb (frameTotal rb)
    · rw [if_pos c5] at hs
      rw [if_pos (e3.2 c5)] at hs'
      subst hs; subst hs'
      refine ⟨rfl, by simp [turnDrop, frameTotal_append c h7], ?_⟩
      simp [turnEvents, frontPacket, frameTotal_append c h7, List.take_append_of_le_length (not_lt.1 c4)]
    · rw [if_neg c5] at hs
      rw [if_neg (fun hh => c5 (e3.1 hh))] at hs'
      subst hs; subst hs'
      refine ⟨rfl, by simp [turnDrop, frameTotal_append c h7], ?_⟩
      simp [turnEvents, lenField, optField, frameTotal_append c h7, e1, e2, hr]
  · rw [if_pos c3] at hs hs'
    subst hs; subst hs'
    exact ⟨rfl, rfl, by simp [turnEvents, hhdr, hr]⟩

/-- What the loop makes of RB and of the outputs depends on them alone. -/
theorem rxLoop_congr {s t : State} (h : s.rb = t.rb) (o : s.out = t.out) :
    (rxLoop s).rb = (rxLoop t).rb ∧ (rxLoop s).out = (rxLoop t).out := by
  induction s using rxLoop_induction generalizing t with
  | stop s hs =>
    have ht : isStop (selected t) = true := by rw [← selected_congr h]; exact hs
    rw [rxLoop_eq s, rxLoop_eq t, if_pos hs, if_pos ht]
    obtain ⟨a1, a2⟩ := rxTurn_of_stop hs
    obtain ⟨b1, b2⟩ := rxTurn_of_stop ht
    rw [a1, a2, b1, b2]; exact ⟨h, o⟩
  | turn s hs ih =>
    have ht : isStop (selected t) = false := by rw [← selected_congr h]; exact hs
    rw [rxLoop_eq s, rxLoop_eq t, hs, ht]
    simp only [Bool.false_eq_true, if_false]
    apply ih
    · rw [(rxTurn_spec s).1, (rxTurn_spec t).1, h, selected_congr h]
    · rw [(rxTurn_spec s).2.1, (rxTurn_spec t).2.1, h, o, selected_congr h]

/-! ### The valve (R149) -/

/-- Everything the valve does. -/
theorem rxValve_spec (s : State) :
    (Config.watermark < s.rb.length ∧ (rxValve s).rb = [] ∧
      (rxValve s).out = s.out ++ [.evt (eventBytes (.ovfl s.rb.length))] ∨
     s.rb.length ≤ Config.watermark ∧ (rxValve s).rb = s.rb ∧ (rxValve s).out = s.out) ∧
    (rxValve s).pending = s.pending ∧ (rxValve s).ret = s.ret := by
  by_cases h : Config.watermark < s.rb.length
  · have e : rxValve s = emitEvt (.ovfl (bufLen s.rb)) (bufClear s) := if_pos h
    rw [e]
    exact ⟨.inl ⟨h, rfl, rfl⟩, rfl, rfl⟩
  · have e : rxValve s = s := if_neg h
    rw [e]
    exact ⟨.inr ⟨not_lt.1 h, rfl, rfl⟩, rfl, rfl⟩

/-- What the valve makes of RB and the events it adds depend on RB alone. -/
theorem rxValve_congr {s t : State} (h : s.rb = t.rb) :
    ∃ evs : List (List Byte), (rxValve s).rb = (rxValve t).rb ∧ (rxValve s).out = s.out ++ evs.map Output.evt ∧
      (rxValve t).out = t.out ++ evs.map Output.evt := by
  rcases (rxValve_spec s).1 with ⟨a0, a1, a2⟩ | ⟨a0, a1, a2⟩ <;>
    rcases (rxValve_spec t).1 with ⟨b0, b1, b2⟩ | ⟨b0, b1, b2⟩ <;> rw [← h] at b0
  · exact ⟨[eventBytes (.ovfl s.rb.length)], by rw [a1, b1], a2, by rw [b2, h]; rfl⟩
  · omega
  · omega
  · exact ⟨[], by rw [a1, b1, h], by simpa using a2, by simpa using b2⟩

/-- The valve keeps an RB at rest at rest. -/
theorem rxValve_keeps_rest {s : State} (h : AtRest s.rb) :
    AtRest (rxValve s).rb ∧ (rxValve s).rb.length ≤ Config.watermark := by
  rcases (rxValve_spec s).1 with ⟨-, h1, -⟩ | ⟨h0, h1, -⟩
  · rw [h1]; exact ⟨.inl rfl, Nat.zero_le _⟩
  · rw [h1]; exact ⟨h, h0⟩

/-! ### An RX action run on its own -/

/-- Everything an RX action run on its own does (log entry 9). -/
theorem runSelected_spec (a : RxAction) (s : State) :
    (selected s = a ∧ runSelected a s = .next (rxTurn s)) ∨
    (selected s ≠ a ∧ runSelected a s = .refused .actionNotSelected) := by
  unfold runSelected
  split
  · exact .inl ⟨‹_›, rfl⟩
  · exact .inr ⟨‹_›, rfl⟩

end Sys2Proof.Machine
end

