-- ==== Sys2Proof/Laws/Exec.lean ====
section
/-! SUPPORT. One equation for each way an instruction's meaning branches, so that later proofs unfold no meaning. -/

namespace Sys2Proof.Machine

/-- The precondition of BufAppend, as an inequality (R53). -/
theorem bufHasRoom_iff (rb : Buffer) : bufHasRoom rb = true ↔ rb.length < Config.bufCap := by
  unfold bufHasRoom
  exact decide_eq_true_iff

/-- RXB where the append finds room (R151). -/
theorem exec_rxb_of_room {b : Byte} {s : State} (h : s.rb.length < Config.bufCap) :
    exec (.rxb b) s = .next (respond .ok (rxLoop (bufAppend b s))) := if_pos ((bufHasRoom_iff _).2 h)

/-- EOC (R152). -/
theorem exec_eoc (s : State) : exec .eoc s = .next (respond .ok (release (rxValve (rxLoop s)))) := rfl

/-- FEED of no byte is EOC (R87). -/
theorem exec_feed_nil (s : State) : exec (.feed []) s = exec .eoc s := rfl

/-- FEED goes on after an RXB that completes (R87). -/
theorem exec_feed_cons {b : Byte} {c : List Byte} {s t : State} (h : exec (.rxb b) s = .next t) :
    exec (.feed (b :: c)) s = exec (.feed c) t := by
  have h' : execRxb b s = .next t := h
  show execFeed (b :: c) s = execFeed c t
  simp only [execFeed, h']

/-- A FEED that completes has completed its first RXB (R87). -/
theorem exec_feed_cons_next {b : Byte} {c : List Byte} {s u : State} (h : exec (.feed (b :: c)) s = .next u) :
    ∃ t, exec (.rxb b) s = .next t ∧ exec (.feed c) t = .next u := by
  have h' : execFeed (b :: c) s = .next u := h
  simp only [execFeed] at h'
  split at h'
  · exact ⟨_, ‹_›, h'⟩
  · cases h'
  · cases h'

/-- The flags of ERR_ENCODE are zero exactly where both counts are in range (R122). -/
theorem encodeFlags_eq_zero_iff (d o : Nat) : encodeFlags d o = 0 ↔ d ≤ Config.maxData ∧ o ≤ Config.maxOpt := by
  unfold encodeFlags dataTooLong optTooLong
  by_cases h1 : Config.maxData < d <;> by_cases h2 : Config.maxOpt < o <;>
    simp only [h1, h2, decide_true, decide_false, if_true, if_false, Bool.false_eq_true] <;> simp at h1 h2 ⊢ <;> omega

/-- TXF with both counts in range (R122). -/
theorem exec_txf_of_inRange {t : PType} {data opt : List Byte} {s : State} (hd : data.length ≤ Config.maxData)
    (ho : opt.length ≤ Config.maxOpt) :
    exec (.txf t data opt) s =
      .next (release (respond .ok (emitTxd (frameOf { ptype := t, data := data, opt := opt })
        { s with wr := txfRegs t data opt s.wr }))) := by
  have h : ¬ encodeFlags data.length opt.length ≠ 0 := not_not.2 ((encodeFlags_eq_zero_iff _ _).2 ⟨hd, ho⟩)
  show execTxf t data opt s = _
  unfold execTxf
  rw [if_neg h]
  rfl

/-- TXF with a count out of range (R123). -/
theorem exec_txf_of_tooLong {t : PType} {data opt : List Byte} {s : State}
    (h : ¬ (data.length ≤ Config.maxData ∧ opt.length ≤ Config.maxOpt)) :
    exec (.txf t data opt) s = .next (respond (.errEncode (encodeFlags data.length opt.length)) s) := by
  have h' : encodeFlags data.length opt.length ≠ 0 := fun e => h ((encodeFlags_eq_zero_iff _ _).1 e)
  exact if_pos h'

/-- DECODE of a valid frame (R125). -/
theorem exec_decode_of_valid {f : List Byte} {s : State} (h : ValidFrame f) :
    exec (.decode f) s = .next { s with wr := decodeRegs f s.wr, ret := .packet (decodePacket f s.wr).1 } := if_pos h

/-- The packet DECODE returns does not depend on the working registers (R24). -/
theorem decodePacket_indep (f : List Byte) (w w' : WorkRegs) : (decodePacket f w).1 = (decodePacket f w').1 := rfl

/-- What a transfer can decode to (R81). -/
theorem decode_cases (t : List Byte) :
    (∃ b, decode t = .rxb b) ∨ decode t = .eoc ∨ (∃ ty data opt, decode t = .txf ty data opt) ∨
      (∃ input, decode t = .cks input) ∨ decode t = .reserved t := by
  unfold decode
  split
  · simp
  · split
    · split <;> simp
    split
    · split <;> simp
    split
    · unfold decodeTxf
      split
      · simp only; split <;> simp
      · simp
    split
    · unfold decodeCks
      split
      · split <;> simp
      · simp
    · simp

end Sys2Proof.Machine
end

