-- ==== Sys2Proof/Laws/Buffer.lean ====
section
/-! SUPPORT. The buffer primitives keep RB within its storage (20_memory.md R52 to R55), and the checksum's small
laws (40_checksum.md R100). RB is one list of bytes, so equal buffers are equal lists: there is no other form to keep. -/

namespace Sys2Proof.Machine

/-! ### Capacity (R21, R53 to R55) -/

theorem withinCapacity_reset : WithinCapacity State.reset.rb := Nat.zero_le _

theorem withinCapacity_bufClear (s : State) : WithinCapacity (bufClear s).rb := Nat.zero_le _

theorem withinCapacity_bufDrop {s : State} (k : Nat) (h : WithinCapacity s.rb) : WithinCapacity (bufDrop k s).rb := by
  show (s.rb.drop k).length ≤ Config.bufCap
  rw [List.length_drop]
  exact le_trans (Nat.sub_le _ _) h

/-- An append whose precondition holds stays within the storage (R53). -/
theorem withinCapacity_bufAppend {s : State} (b : Byte) (h : bufHasRoom s.rb = true) :
    WithinCapacity (bufAppend b s).rb := by
  show (s.rb ++ [b]).length ≤ Config.bufCap
  rw [List.length_append]
  exact (bufHasRoom_iff s.rb).1 h

theorem withinCapacity_rxTurn {s : State} (h : WithinCapacity s.rb) : WithinCapacity (rxTurn s).rb := by
  rw [(rxTurn_spec s).1]
  exact withinCapacity_bufDrop (s := s) _ h

theorem withinCapacity_rxLoop {s : State} (h : WithinCapacity s.rb) : WithinCapacity (rxLoop s).rb := by
  obtain ⟨k, _, e, _⟩ := rxLoop_spec s
  rw [e]
  exact withinCapacity_bufDrop (s := s) k h

/-! ### The checksum (R100) -/

@[simp] theorem checksumAcc_nil : checksumAcc [] = 0 := rfl

@[simp] theorem checksum_nil : checksum [] = 0 := rfl

theorem checksumAcc_append (s : List Byte) (b : Byte) : checksumAcc (s ++ [b]) = ckByte (checksumAcc s) b := by
  simp [checksumAcc]

theorem ckBits_zero_acc (n : Nat) : ckBits n 0 = 0 := by
  induction n with
  | zero => rfl
  | succ n ih => exact ih

end Sys2Proof.Machine
end

