-- ==== Sys2Proof/Laws/PerInstr.lean ====
section
/-! SUPPORT. One statement for each instruction as syntax: the host moves that carry it and the bytes of each transfer
(30_encoding.md R75, column 'transfer length'; R87; R88, R89). -/

namespace Sys2Proof.Laws.EncodedLength

/-- How many bytes a move carries on CMD; RST carries none (R35). -/
def moveLength : HostMove → Nat
  | .transfer t => t.length
  | .rst => 0

/-- The lengths of the moves of an instruction, in order. -/
def lengths : Instr → List Nat
  | .rxb _ => [2]
  | .eoc => [1]
  | .txf _ data opt => [8 + data.length + opt.length]
  | .cks input => [5 + input.length]
  | .reserved t => [t.length]
  | .rst => [0]
  | .feed chunk => List.replicate chunk.length 2 ++ [1]
  | .checksum _ => []
  | .decode _ => []
  | .rxDiscard => []
  | .rxWaitHeader => []
  | .rxHdrSlip => []
  | .rxWaitPayload => []
  | .rxDeliver => []
  | .rxDropFrame => []
  | .rxValve => []

/-- The moves of `i` have the lengths of R75. -/
def Statement (i : Instr) : Prop := (encode i).map moveLength = lengths i

theorem rxb (b : Byte) : Statement (.rxb b) := rfl

theorem eoc : Statement .eoc := rfl

theorem txf (t : PType) (data opt : List Byte) : Statement (.txf t data opt) := by
  simp [Statement, encode, moveLength, lengths, encodeTxf, bytes16, bytes32]
  omega

theorem cks (input : List Byte) : Statement (.cks input) := by
  simp [Statement, encode, moveLength, lengths, encodeCks, bytes32]
  omega

theorem reserved (t : List Byte) : Statement (.reserved t) := rfl

theorem rst : Statement .rst := rfl

theorem feed (chunk : List Byte) : Statement (.feed chunk) := by
  simp [Statement, encode, moveLength, lengths, Function.comp_def]

theorem checksum (input : List Byte) : Statement (.checksum input) := rfl

theorem decode (frame : List Byte) : Statement (.decode frame) := rfl

theorem rxDiscard : Statement .rxDiscard := rfl

theorem rxWaitHeader : Statement .rxWaitHeader := rfl

theorem rxHdrSlip : Statement .rxHdrSlip := rfl

theorem rxWaitPayload : Statement .rxWaitPayload := rfl

theorem rxDeliver : Statement .rxDeliver := rfl

theorem rxDropFrame : Statement .rxDropFrame := rfl

theorem rxValve : Statement .rxValve := rfl

end Sys2Proof.Laws.EncodedLength
end

