-- ==== Sys2Proof/Tests/Slice0.lean ====
section
/-! SUPPORT. Small tests: the checks of WellFormed, the decoder on transfers written out from 30_encoding.md R75, one
step of each instruction with the results of 95_test_vectors.md, and a witness for the hypotheses of each statement. -/

namespace Sys2Proof.Tests

open Sys2Proof.Machine

/-- The state at power-on with RB holding `rb`. -/
def holding (rb : Buffer) : State := { State.reset with rb := rb }

/-- RB and the outputs of a step that completes. -/
def seen : Host.Outcome State Fault Refusal → Option (Buffer × List Output)
  | .next t => some (t.rb, t.out)
  | .fault _ => none
  | .refused _ => none

/-- RB and the events of a step that completes. -/
def seenEvents : Host.Outcome State Fault Refusal → Option (Buffer × List (List Byte))
  | .next t => some (t.rb, evtTrace t)
  | .fault _ => none
  | .refused _ => none

/-- The working registers and the returned value of a step that completes. -/
def seenRegs : Host.Outcome State Fault Refusal → Option (WorkRegs × Ret)
  | .next t => some (t.wr, t.ret)
  | .fault _ => none
  | .refused _ => none

/-- Frame FA of 95_test_vectors.md, packet `05.03.`. -/
def frameA : List Byte := [0x55, 0x00, 0x01, 0x00, 0x05, 0x70, 0x03, 0x09]

/-- Frame FB of 95_test_vectors.md, packet `01..`. -/
def frameB : List Byte := [0x55, 0x00, 0x00, 0x00, 0x01, 0x07, 0x00]

/-- The header of frame FE of 95_test_vectors.md, and `n` bytes of a payload still incomplete. -/
def partialE (n : Nat) : List Byte := [0x55, 0x00, 0xC8, 0x00, 0x02, 0xD2] ++ List.replicate n 0x00

/-! ### WellFormed: each check refuses an ill-formed term -/

theorem test_wf_txf_data_too_long : wellFormed (.txf 0x01 (List.replicate (2 ^ 32) 0x00) []) = false := by
  simp only [wellFormed, List.length_replicate]; decide

theorem test_wf_txf_opt_too_long : wellFormed (.txf 0x01 [] (List.replicate (2 ^ 16) 0x00)) = false := by
  simp only [wellFormed, List.length_replicate]; decide

theorem test_wf_cks_too_long : wellFormed (.cks (List.replicate (2 ^ 32) 0x00)) = false := by
  simp only [wellFormed, List.length_replicate]; decide

theorem test_wf_reserved_is_rxb : wellFormed (.reserved [0x01, 0x55]) = false := by decide

theorem test_wf_reserved_is_eoc : wellFormed (.reserved [0x02]) = false := by decide

theorem test_wf_reserved_is_txf : wellFormed (.reserved [0x03, 0x05, 0, 0, 0, 1, 0, 0, 0x03]) = false := by decide

theorem test_wf_reserved_is_cks : wellFormed (.reserved [0x04, 0, 0, 0, 1, 0x01]) = false := by decide

theorem test_wf_reserved_short : wellFormed (.reserved [0x03, 0x05]) = true := by decide

/-! ### Decoding (V-CMD, V-CKS, V-TX): the bytes are those of R75's layouts -/

theorem test_decode_rxb : decode [0x01, 0x55] = .rxb 0x55 := by decide

theorem test_decode_eoc : decode [0x02] = .eoc := by decide

theorem test_decode_txf : decode [0x03, 0x05, 0x00, 0x00, 0x00, 0x01, 0x00, 0x00, 0x03] = .txf 0x05 [0x03] [] := by decide

theorem test_decode_txf_opt :
    decode [0x03, 0x0A, 0, 0, 0, 2, 0, 2, 0x55, 0xAA, 0x01, 0xFF] = .txf 0x0A [0x55, 0xAA] [0x01, 0xFF] := by decide

theorem test_decode_cks : decode [0x04, 0, 0, 0, 4, 0, 1, 0, 5] = .cks [0, 1, 0, 5] := by decide

theorem test_decode_reserved_opcode : decode [0x05] = .reserved [0x05] := by decide

theorem test_decode_reserved_empty : decode [] = .reserved [] := by decide

theorem test_decode_reserved_length : decode [0x02, 0x00] = .reserved [0x02, 0x00] := by decide

theorem test_decode_rst : (encode .rst).map decodeMove = [.rst] := by decide

theorem test_decode_feed : (encode (.feed [0xAA])).map decodeMove = [.rxb 0xAA, .eoc] := by decide

theorem test_decode_internal : encode (.checksum [0x01]) = [] ∧ encode (.decode frameA) = [] ∧ encode .rxDiscard = [] ∧
    encode .rxWaitHeader = [] ∧ encode .rxHdrSlip = [] ∧ encode .rxWaitPayload = [] ∧ encode .rxDeliver = [] ∧
    encode .rxDropFrame = [] ∧ encode .rxValve = [] := by decide

theorem test_table_word_rxb : decodeTableWord 16 0x5501 = some (.rxb 0x55) := by decide

theorem test_table_word_txf : decodeTableWord 64 0x0001000000000503 = some (.txf 0x05 [] (List.replicate 256 0)) := by
  decide +kernel

theorem test_table_word_runs :
    (step (State.reset.withFetchWord 8 0x02)) = exec .eoc State.reset := rfl

/-! ### One step of each instruction -/

theorem test_rxb_completes_frame : seen (exec (.rxb 0x09) (holding [0x55, 0x00, 0x01, 0x00, 0x05, 0x70, 0x03])) =
    some ([], [.evt [0x10, 0x05, 0x00, 0x01, 0x00, 0x03], .rsp [0x00]]) := by decide +kernel

theorem test_rxb_noise : seen (exec (.rxb 0xAA) (holding [])) = some ([], [.evt [0x01, 0xAA], .rsp [0x00]]) := by
  decide +kernel

theorem test_eoc_keeps_100 : seen (exec .eoc (holding (partialE 94))) = some (partialE 94, [.rsp [0x00]]) := by
  decide +kernel

theorem test_eoc_flushes_101 : seen (exec .eoc (holding (partialE 95))) =
    some ([], [.evt [0x04, 0, 0, 0, 101], .rsp [0x00]]) := by decide +kernel

theorem test_txf_frame : seen (exec (.txf 0x0A [0x55, 0xAA] [0x01, 0xFF]) (holding [0x55])) =
    some ([0x55], [.txd [0x55, 0x00, 0x02, 0x02, 0x0A, 0xCA, 0x55, 0xAA, 0x01, 0xFF, 0x9B], .rsp [0x00]]) := by
  decide +kernel

theorem test_txf_opt_too_long : seen (exec (.txf 0x01 [] (List.replicate 256 0)) State.reset) =
    some ([], [.rsp [0x01, 0x02]]) := by decide +kernel

theorem test_cks_check_string : seen (exec (.cks [0x31, 0x32, 0x33, 0x34, 0x35, 0x36, 0x37, 0x38, 0x39]) (holding [0x55])) =
    some ([0x55], [.rsp [0x00, 0xF4]]) := by decide +kernel

theorem test_reserved : seen (exec (.reserved [0xFF, 0x00]) (holding [0x55])) = some ([0x55], [.rsp [0x02]]) := by decide

theorem test_rst : seen (exec .rst { holding [0x55, 0x00] with out := [.rsp [0x00]] }) = some ([], [.rsp [0x00]]) := by
  decide

/-- V-RX-03: the header checksum byte changed from 70 to 8F. -/
theorem test_feed_header_corrupt :
    seenEvents (exec (.feed [0x55, 0x00, 0x01, 0x00, 0x05, 0x8F, 0x03, 0x09]) State.reset) =
      some ([], [[0x02, 0x00, 0x01, 0x00, 0x05, 0x8F, 0x70], [0x01, 0x00], [0x01, 0x01], [0x01, 0x00], [0x01, 0x05],
        [0x01, 0x8F], [0x01, 0x03], [0x01, 0x09]]) := by decide +kernel

theorem test_feed_one_noise_byte : seen (exec (.feed [0x01]) State.reset) =
    some ([], [.evt [0x01, 0x01], .rsp [0x00], .rsp [0x00]]) := by decide +kernel

/-- The hand trace of 0x80: XOR at iterations 1, 7 and 8. -/
theorem test_checksum_80 : checksum [0x80] = 0x89 := by decide +kernel

theorem test_checksum_ret : seenRegs (exec (.checksum [0x55]) State.reset) =
    some ({ WorkRegs.reset with acc := 0xAC00 }, .byte 0xAC) := by decide +kernel

theorem test_decode_frame_ret :
    seenRegs (exec (.decode [0x55, 0x00, 0x02, 0x02, 0x0A, 0xCA, 0x55, 0xAA, 0x01, 0xFF, 0x9B]) State.reset) =
      some ({ WorkRegs.reset with len := 2, opt := 2, ptype := 0x0A },
        .packet { ptype := 0x0A, data := [0x55, 0xAA], opt := [0x01, 0xFF] }) := by decide +kernel

theorem test_rx_discard : seen (exec .rxDiscard (holding [0xAA, 0x55])) = some ([0x55], [.evt [0x01, 0xAA]]) := by
  decide +kernel

theorem test_rx_wait_header : seen (exec .rxWaitHeader (holding [0x55, 0x00, 0x01, 0x00, 0x05, 0x70])) =
    some ([0x55, 0x00, 0x01, 0x00, 0x05, 0x70], []) := by decide +kernel

theorem test_rx_hdr_slip : seen (exec .rxHdrSlip (holding [0x55, 0x00, 0x01, 0x00, 0x05, 0x8F, 0x03, 0x09])) =
    some ([0x00, 0x01, 0x00, 0x05, 0x8F, 0x03, 0x09], [.evt [0x02, 0x00, 0x01, 0x00, 0x05, 0x8F, 0x70]]) := by
  decide +kernel

theorem test_rx_wait_payload : seen (exec .rxWaitPayload (holding [0x55, 0x00, 0x01, 0x00, 0x05, 0x70, 0x03])) =
    some ([0x55, 0x00, 0x01, 0x00, 0x05, 0x70, 0x03], []) := by decide +kernel

theorem test_rx_deliver : seen (exec .rxDeliver (holding (frameA ++ frameB))) =
    some (frameB, [.evt [0x10, 0x05, 0x00, 0x01, 0x00, 0x03]]) := by decide +kernel

theorem test_rx_drop_frame : seen (exec .rxDropFrame (holding [0x55, 0x00, 0x01, 0x00, 0x05, 0x70, 0x03, 0xF6])) =
    some ([], [.evt [0x03, 0x05, 0x00, 0x01, 0x00, 0xF6, 0x09]]) := by decide +kernel

theorem test_rx_valve_keeps_100 : seen (exec .rxValve (holding (partialE 94))) = some (partialE 94, []) := by
  decide +kernel

theorem test_rx_valve_flushes_101 : seen (exec .rxValve (holding (partialE 95))) =
    some ([], [.evt [0x04, 0, 0, 0, 101]]) := by decide +kernel

/-! ### Witnesses: states and operands that meet the hypotheses of the statements -/

/-- BadTransfersGetErrBadCmdAndChangeNothing: each way to be bad. -/
theorem witness_bad_transfers : badTransfer [] = true ∧ badTransfer [0x00] = true ∧ badTransfer [0x05] = true ∧
    badTransfer [0xFF, 0x00] = true ∧ badTransfer [0x01] = true ∧ badTransfer [0x02, 0x00] = true ∧
    badTransfer [0x03, 0x01, 0, 0, 0, 1, 0, 0] = true ∧ badTransfer [0x04, 0, 0, 0, 0, 0xAA] = true := by decide

/-- CksTransferCarriesABigEndianCount, at no byte and at one count byte of 1. -/
theorem witness_cks_count : ([] : List Byte).length = (0 : Byte).toNat * 2 ^ 24 + (0 : Byte).toNat * 2 ^ 16 +
      (0 : Byte).toNat * 2 ^ 8 + (0 : Byte).toNat ∧
    (List.replicate 256 (0 : Byte)).length = (0 : Byte).toNat * 2 ^ 24 + (0 : Byte).toNat * 2 ^ 16 +
      (1 : Byte).toNat * 2 ^ 8 + (0 : Byte).toNat := by
  simp only [List.length_replicate]; decide

/-- TxfTransferCarriesTwoBigEndianCounts, with both counts above one byte. -/
theorem witness_txf_counts : (List.replicate 256 (0 : Byte)).length = (0 : Byte).toNat * 2 ^ 24 +
      (0 : Byte).toNat * 2 ^ 16 + (1 : Byte).toNat * 2 ^ 8 + (0 : Byte).toNat ∧
    (List.replicate 257 (0 : Byte)).length = (1 : Byte).toNat * 2 ^ 8 + (1 : Byte).toNat := by
  simp only [List.length_replicate]; decide

/-- EncodingThenDecodingGivesTheInstruction. -/
theorem witness_well_formed : wellFormed (.txf 0x05 [0x03] [0xFF]) = true ∧ wellFormed (.cks [0x01]) = true ∧
    wellFormed (.reserved [0x00]) = true := by decide

/-- StepRunsTheDecodedMove, EachCommandEmitsOneResponseLast: a state at rest with a move to take. -/
theorem witness_move : (offer [0x01, 0xAA] State.reset).pending = [.transfer [0x01, 0xAA]] ∧
    AtRest (offer [0x01, 0xAA] State.reset).rb := ⟨rfl, .inl rfl⟩

/-- IdleBlockHoldsItsState. -/
theorem witness_idle : State.reset.pending = [] := rfl

/-- NoStepStopsFromRest, EveryStepKeepsTheBufferAtRest, AppendNeverFindsTheBufferFull, FeedHasItsChunkLevelMeaning,
RxbAppendsAndRunsTheLoop: RB at rest in each of the three ways, and a step from it. -/
theorem witness_at_rest : AtRest [] ∧ AtRest [0x55] ∧ AtRest (partialE 95) ∧ (partialE 95).length < Config.bufCap ∧
    step (holding []) = .next (holding []) := ⟨.inl rfl, by decide +kernel, by decide +kernel, by decide, rfl⟩

/-- EveryInstructionKeepsTheBufferWithinCapacity, EveryInstructionEmitsOnlyLegalEvents, RestInvariantsAreEstablished,
AppendNeverFindsTheBufferFull: instructions that complete. -/
theorem witness_completes : WithinCapacity State.reset.rb ∧ EventsLegal State.reset ∧
    (∃ t, exec (.rxb 0xAA) State.reset = .next t) ∧ (∃ t, exec .eoc State.reset = .next t) ∧
    (∃ t, exec (.feed []) State.reset = .next t) ∧ (∃ t, exec (.txf 0x01 [] []) State.reset = .next t) ∧
    (∃ t, exec (.cks []) State.reset = .next t) ∧ (∃ t, exec .rxValve State.reset = .next t) ∧
    ∃ t, exec .rst State.reset = .next t :=
  ⟨Nat.zero_le _, by intro e h; simp [evtTrace, State.reset] at h, ⟨_, exec_rxb_of_room (by decide)⟩, ⟨_, rfl⟩,
    ⟨_, rfl⟩, ⟨_, exec_txf_of_inRange (by decide) (by decide)⟩, ⟨_, rfl⟩, ⟨_, rfl⟩, ⟨_, rfl⟩⟩

/-- OnlyTheBufferCarriesHistory: two different states with one RB. -/
theorem witness_same_buffer : (holding [0x55]).rb = { holding [0x55] with out := [.rsp [0x00]] }.rb ∧
    holding [0x55] ≠ { holding [0x55] with out := [.rsp [0x00]] } := by decide

/-- TxfEmitsOneFrameOrReportsBothFlags, TransmittedFramesAreValid, DecodingATransmittedFrameGivesThePacket,
LoopbackDeliversTheTransmittedPacket: the largest lengths in range, and one more of each. -/
theorem witness_txf_lengths : (List.replicate 65535 (0 : Byte)).length ≤ 65535 ∧ (List.replicate 255 (0 : Byte)).length ≤ 255 ∧
    65535 < (List.replicate 65536 (0 : Byte)).length ∧ 255 < (List.replicate 256 (0 : Byte)).length ∧
    (holding []).rb = [] := by
  simp only [List.length_replicate]; decide

/-- AccumulatorLowByteStaysZero is over all inputs; the premise of BitSerialChecksumIsTheBytewiseOne holds of 0x8000. -/
theorem witness_low_byte_zero : (0x8000 : Acc).setWidth 8 = (0 : Byte) := by decide

/-- AppendingTheChecksumGivesZero, EncodingADecodedFrameGivesTheFrame: valid frames, the shortest among them, and what
DECODE answers on one. -/
theorem witness_valid_frames : ValidFrame frameA ∧ ValidFrame frameB ∧
    (∃ t, exec (.decode frameB) State.reset = .next t ∧ t.ret = .packet { ptype := 0x01, data := [], opt := [] }) :=
  ⟨by decide +kernel, by decide +kernel, _, exec_decode_of_valid (by decide +kernel), rfl⟩

/-- DecodeRefusesInvalidFrames. -/
theorem witness_invalid_frame : ¬ ValidFrame [] := by decide +kernel

/-- DecodeReturnsThePacketOfAFrame, DeliverEmitsThePacketAndConsumesTheFrame, DropFrameReportsAndConsumesTheFrame,
NoiseBeforeAFrameIsDiscarded: a layout with both lengths, its two checksums, and noise. -/
theorem witness_layout : ([0x55, 0xAA] : List Byte).length = (0 : Byte).toNat * 256 + (2 : Byte).toNat ∧
    ([0x01, 0xFF] : List Byte).length = (2 : Byte).toNat ∧ (0x00 : Byte) ≠ checksum [0x55, 0xAA, 0x01, 0xFF] ∧
    0x55 ∉ ([0x01, 0x02] : List Byte) ∧ (holding (frameBytes 0 2 2 0x0A [0x55, 0xAA] [0x01, 0xFF] 0x9B ++ [0x55])).rb =
      frameBytes 0 2 2 0x0A [0x55, 0xAA] [0x01, 0xFF] (checksum [0x55, 0xAA, 0x01, 0xFF]) ++ [0x55] ∧
    (holding (frameBytes 0 2 2 0x0A [0x55, 0xAA] [0x01, 0xFF] 0x00)).rb =
      frameBytes 0 2 2 0x0A [0x55, 0xAA] [0x01, 0xFF] 0x00 ++ [] := by decide +kernel

/-- OffsetsFollowAppendsAndDrops: an offset that a drop moves and one that it does not keep. -/
theorem witness_offsets : 1 ≤ 1 ∧ 1 < bufLen [0x55, 0xAA] ∧ 2 ≤ bufLen ([0x55, 0xAA] : Buffer) := by decide

/-- SelectionFollowsTheActionMap, PhasesFollowTheirDefinition: a framed buffer with its header valid and complete. -/
theorem witness_framed : frameA.head? = some 0x55 ∧ 7 ≤ frameA.length ∧ checksum (slice frameA 1 5) = readAt frameA 5 ∧
    7 + (readAt frameA 1).toNat * 256 + (readAt frameA 2).toNat + (readAt frameA 3).toNat ≤ frameA.length := by
  decide +kernel

/-- UnselectedRxActionsAreRefused. -/
theorem witness_unselected : selected (holding [0xAA]) = .discard ∧ selected (holding []) = .waitHeader := by
  decide +kernel

/-- DiscardReportsAndDropsOneByte, WaitHeaderChangesNothing (both clauses, the second at 6 bytes). -/
theorem witness_discard_wait : (holding [0xAA, 0x55]).rb = 0xAA :: [0x55] ∧ (0xAA : Byte) ≠ 0x55 ∧ (holding []).rb = [] ∧
    (holding (frameA.take 6)).rb.head? = some 0x55 ∧ (holding (frameA.take 6)).rb.length < 7 := by decide

/-- HeaderSlipDropsOnlyTheSyncByte and WaitPayloadChangesNothing, at the least length of 7 bytes. -/
theorem witness_slip_wait :
    (holding [0x55, 0x00, 0x01, 0x00, 0x05, 0x8F, 0x03]).rb = 0x55 :: 0x00 :: 0x01 :: 0x00 :: 0x05 :: 0x8F :: [0x03] ∧
    checksum [0x00, 0x01, 0x00, 0x05] ≠ 0x8F ∧ ([0x03] : Buffer) ≠ [] ∧
    (holding (frameA.take 7)).rb = 0x55 :: 0x00 :: 0x01 :: 0x00 :: 0x05 :: checksum [0x00, 0x01, 0x00, 0x05] :: [0x03] ∧
    (holding (frameA.take 7)).rb.length < 7 + (0 : Byte).toNat * 256 + (1 : Byte).toNat + (0 : Byte).toNat := by
  decide +kernel

/-- ValveFlushesMoreThanAHundredBytes, EocRunsTheLoopAndTheValve, EmptyChunkChangesNothing: RB at rest with 100 bytes,
and with 101. -/
theorem witness_watermark : AtRest (partialE 94) ∧ (partialE 94).length = 100 ∧ AtRest (partialE 95) ∧
    (partialE 95).length = 101 ∧ AtChunkBoundary (partialE 94) := by decide +kernel

/-- RxbOnAFullBufferFaults. -/
theorem witness_full_buffer : Config.bufCap ≤ (holding (List.replicate 65797 0x00)).rb.length := by
  show 65797 ≤ (List.replicate 65797 (0x00 : Byte)).length
  rw [List.length_replicate]

/-- ChunkingIsInvisibleBelowTheWatermark: frame FB in two chunks. -/
theorem witness_quiet : AtRest State.reset.rb ∧ Quiet [frameB.take 3, frameB.drop 3] State.reset ∧
    [frameB.take 3, frameB.drop 3] ≠ [] := by
  refine ⟨.inl rfl, ⟨?_, fun _ _ => trivial⟩, by simp⟩
  rw [(rxLoop_of_rest (by decide +kernel)).1]
  decide

theorem checksum_zeros (n : Nat) : checksum (List.replicate n 0x00) = 0x00 := by
  have h : ∀ n, checksumAcc (List.replicate n 0x00) = 0 := by
    intro n
    induction n with
    | zero => rfl
    | succ n ih => rw [List.replicate_succ', checksumAcc_append, ih]; decide
  rw [checksum, h]; decide

/-- SplitFrameSurvivesUpToTheWatermark: a frame of 207 bytes split after 100 bytes, and after 101 with no sync byte in
the tail. -/
theorem witness_split : (List.replicate 200 (0 : Byte)).length = (0 : Byte).toNat * 256 + (200 : Byte).toNat ∧
    (frameBytes 0 200 0 2 (List.replicate 200 0) [] (checksum (List.replicate 200 0))).length = 207 ∧
    0x55 ∉ (frameBytes 0 200 0 2 (List.replicate 200 0) [] (checksum (List.replicate 200 0 ++ []))).drop 101 := by
  refine ⟨by decide +kernel, by decide +kernel, ?_⟩
  rw [List.append_nil, checksum_zeros]
  decide +kernel

/-- ExtraSyncByteSlipsOrSwallowsTheFrame: V-RX-18 and the collision of V-RX-19. -/
theorem witness_extra_sync : checksum [0x55, 0x00, 0x01, 0x00] ≠ 0x05 ∧ checksum [0x55, 0x00, 0x00, 0x00] = 0xB2 ∧
    (frameBytes 0 0 0 0xB2 [] [] (checksum [])).length < 100 := by decide +kernel

end Sys2Proof.Tests
end

section
/-! The parameters of 00_scope.md: R7's relations between them and R6's value of each. -/

namespace Sys2Proof.Config

/-- The source's shift by 3 drops no bit of `0x1070`: on 16 bits it is the multiplication by 8 that R7 states. -/
theorem ckXor_toNat_eq_mul_eight : ckXor.toNat = ckXorBase.toNat * 8 :=
  calc ckXor.toNat = ckXorBase.toNat <<< ckXorShift % 2 ^ accW := BitVec.toNat_shiftLeft
    _ = ckXorBase.toNat * 8 % 2 ^ accW := by rw [Nat.shiftLeft_eq]; rfl
    _ = ckXorBase.toNat * 8 := Nat.mod_eq_of_lt (by decide)

/-- R62: the reassembly buffer stores any one frame. -/
theorem maxFrame_le_bufCap : maxFrame ≤ bufCap := Nat.le_refl maxFrame

end Sys2Proof.Config

namespace Sys2Proof.Proofs
open Sys2Proof.Config

/-- Settles O1. The lengths and offsets are computed from one another as R7 says; `CK_XOR` is the relation that rests on
arithmetic, for its shift must not overflow the accumulator. -/
theorem parameterRelationsHold : Obligations.ParameterRelationsHold := by
  unfold Obligations.ParameterRelationsHold
  constructor
  case left =>
    exact ⟨rfl, rfl, rfl, ckXor_toNat_eq_mul_eight, ckXor_eq, rfl, maxFrame_le_bufCap⟩
  case right =>
    exact ⟨rfl, rfl, hckOff_eq, dataOff_eq, minFrame_eq, rfl, rfl, rfl, rfl, maxData_eq, rfl, maxOpt_eq, rfl,
      maxFrame_eq, bufCap_eq⟩

end Sys2Proof.Proofs
end

section
/-! What each command leaves behind when it completes: RB, the transfers it emits in their order, its response last
(10_state.md R32). -/

namespace Sys2Proof.Machine

/-! ### One step (R31) -/

/-- With a move to take, a step is the run of the instruction the move decodes to. -/
theorem step_of_pending {s : State} {m : HostMove} {rest : List HostMove} (h : s.pending = m :: rest) :
    step s = exec (decodeMove m) { s with pending := rest } := by
  have hfetch : fetch s = some (decodeMove m, { s with pending := rest }) := by rw [fetch, h]
  rw [step, hfetch]

/-! ### Completion -/

/-- The next state is the one an instruction completes in. -/
theorem CompletesWith.rb_eq {i : Instr} {s t : State} {rb : Buffer} {outs : List Output}
    (hc : CompletesWith i s rb outs) (h : exec i s = .next t) : t.rb = rb := by
  obtain ⟨u, hu, hrb, -⟩ := hc
  obtain rfl : u = t := Host.Outcome.next.inj (hu.symm.trans h)
  exact hrb

/-- The valve emits events alone. -/
theorem rxValve_events (s : State) : ∃ evs : List (List Byte), (rxValve s).out = s.out ++ evs.map Output.evt := by
  obtain ⟨evs, -, hout, -⟩ := rxValve_congr (rfl : s.rb = s.rb)
  exact ⟨evs, hout⟩

/-- RXB where the append finds room: the loop's events, then OK (R151). -/
theorem completesWith_rxb {s : State} (b : Byte) (h : s.rb.length < Config.bufCap) :
    ∃ evs : List (List Byte),
      CompletesWith (.rxb b) s (rxLoop (bufAppend b s)).rb (evs.map Output.evt ++ [.rsp [0x00]]) := by
  obtain ⟨evs, hout⟩ := rxLoop_events (bufAppend b s)
  exact ⟨evs, _, exec_rxb_of_room h, rfl, by simp [hout, responseBytes], by simp, by simp⟩

/-- EOC: the events of the loop and of the valve, then OK (R152). -/
theorem completesWith_eoc (s : State) :
    ∃ evs : List (List Byte), CompletesWith .eoc s (rxValve (rxLoop s)).rb (evs.map Output.evt ++ [.rsp [0x00]]) := by
  obtain ⟨loopEvs, hloop⟩ := rxLoop_events s
  obtain ⟨valveEvs, hvalve⟩ := rxValve_events (rxLoop s)
  obtain ⟨-, hpending, hret⟩ := rxValve_spec (rxLoop s)
  exact ⟨loopEvs ++ valveEvs, _, exec_eoc s, rfl, by simp [hloop, hvalve, responseBytes], by simp [hpending],
    by simp [hret]⟩

/-- TXF with both counts in range: one frame, then OK (R122). -/
theorem completesWith_txf_of_inRange {t : PType} {data opt : List Byte} (s : State)
    (h : data.length ≤ Config.maxData ∧ opt.length ≤ Config.maxOpt) :
    CompletesWith (.txf t data opt) s s.rb [.txd (frameOf { ptype := t, data := data, opt := opt }), .rsp [0x00]] :=
  ⟨_, exec_txf_of_inRange h.1 h.2, rfl, by simp [responseBytes], rfl, rfl⟩

/-- TXF with a count out of range: the error response and nothing else (R123). -/
theorem completesWith_txf_of_tooLong {t : PType} {data opt : List Byte} (s : State)
    (h : ¬ (data.length ≤ Config.maxData ∧ opt.length ≤ Config.maxOpt)) :
    CompletesWith (.txf t data opt) s s.rb [.rsp [0x01, encodeFlags data.length opt.length]] :=
  ⟨_, exec_txf_of_tooLong h, rfl, rfl, rfl, rfl⟩

/-- CKS: OK with the checksum of its input (R108). -/
theorem completesWith_cks (input : List Byte) (s : State) :
    CompletesWith (.cks input) s s.rb [.rsp [0x00, checksum input]] :=
  ⟨_, rfl, rfl, rfl, rfl, rfl⟩

/-- A reserved or malformed transfer: ERR_BADCMD (R80). -/
theorem completesWith_reserved (bytes : List Byte) (s : State) :
    CompletesWith (.reserved bytes) s s.rb [.rsp [0x02]] :=
  ⟨_, rfl, rfl, rfl, rfl, rfl⟩

/-- RST empties RB and emits nothing (R210). -/
theorem exec_rst (s : State) : exec .rst s = .next (release { bufClear s with ret := .none }) := rfl

end Sys2Proof.Machine
end

section
/-! RB stays within its storage under every instruction (10_state.md R21, 20_memory.md R62). -/

namespace Sys2Proof.Machine

/-- RXB completes only where the append finds room; a full RB is the fault (R53; log entry 7). -/
theorem exec_rxb_next {b : Byte} {s t : State} (h : exec (.rxb b) s = .next t) :
    bufHasRoom s.rb = true ∧ t = respond .ok (rxLoop (bufAppend b s)) := by
  change (if bufHasRoom s.rb then _ else _) = _ at h
  split at h
  case isTrue hroom => exact ⟨hroom, (Host.Outcome.next.inj h).symm⟩
  case isFalse => cases h

/-- The valve keeps RB or empties it (R149). -/
theorem withinCapacity_rxValve {s : State} (h : WithinCapacity s.rb) : WithinCapacity (rxValve s).rb := by
  obtain ⟨⟨-, hrb, -⟩ | ⟨-, hrb, -⟩, -⟩ := rxValve_spec s
  · rw [hrb]; exact Nat.zero_le _
  · rw [hrb]; exact h

/-- The room RXB asks for is what keeps its append within the storage (R53). -/
theorem withinCapacity_rxb {b : Byte} {s t : State} (h : exec (.rxb b) s = .next t) : WithinCapacity t.rb := by
  obtain ⟨hroom, rfl⟩ := exec_rxb_next h
  exact withinCapacity_rxLoop (withinCapacity_bufAppend b hroom)

theorem withinCapacity_eoc {s t : State} (hs : WithinCapacity s.rb) (h : exec .eoc s = .next t) :
    WithinCapacity t.rb := by
  obtain ⟨_, hc⟩ := completesWith_eoc s
  rw [hc.rb_eq h]
  exact withinCapacity_rxValve (withinCapacity_rxLoop hs)

/-- FEED, along its expansion into RXBs and one EOC (R87). -/
theorem withinCapacity_feed {chunk : List Byte} {s t : State} (hs : WithinCapacity s.rb)
    (h : exec (.feed chunk) s = .next t) : WithinCapacity t.rb := by
  induction chunk generalizing s with
  | nil => exact withinCapacity_eoc hs h
  | cons b chunk ih =>
    obtain ⟨u, hb, hrest⟩ := exec_feed_cons_next h
    exact ih (withinCapacity_rxb hb) hrest

/-- TXF has no part in RB, whatever its counts (R122, R123). -/
theorem exec_txf_rb {ty : PType} {data opt : List Byte} {s t : State} (h : exec (.txf ty data opt) s = .next t) :
    t.rb = s.rb := by
  by_cases hrange : data.length ≤ Config.maxData ∧ opt.length ≤ Config.maxOpt
  · exact (completesWith_txf_of_inRange s hrange).rb_eq h
  · exact (completesWith_txf_of_tooLong s hrange).rb_eq h

/-- DECODE run on its own has no part in RB (R125). -/
theorem exec_decode_rb {f : List Byte} {s t : State} (h : exec (.decode f) s = .next t) : t.rb = s.rb := by
  change (if ValidFrame f then _ else _) = _ at h
  split at h
  · cases h; rfl
  · cases h

/-- An RX action run on its own is a turn of the loop or is refused (log entry 9). -/
theorem withinCapacity_runSelected {a : RxAction} {s t : State} (hs : WithinCapacity s.rb)
    (h : runSelected a s = .next t) : WithinCapacity t.rb := by
  obtain ⟨-, hrun⟩ | ⟨-, hrun⟩ := runSelected_spec a s
  · obtain rfl : rxTurn s = t := Host.Outcome.next.inj (hrun.symm.trans h)
    exact withinCapacity_rxTurn hs
  · cases hrun.symm.trans h

end Sys2Proof.Machine
end

section
/-! The phase of an RB, each under the rule's own condition (10_state.md R26). -/

namespace Sys2Proof.Machine

/-- RB is opened by `b`, as a read at offset 0. -/
theorem head?_eq_some_iff_readAt (rb : Buffer) (b : Byte) :
    rb.head? = some b ↔ 1 ≤ rb.length ∧ readAt rb 0 = b := by
  cases rb with
  | nil => simp
  | cons a rb => simp

/-- The phase as one decision on RB: an empty RB and one not opened by the sync byte are the same case (R26, D21). -/
theorem phase_eq (rb : Buffer) :
    phase rb =
      if rb.head? ≠ some Config.sync then .seeking
      else if rb.length < 7 then .headerPending
      else if ¬ HeaderOk rb then .headerReject
      else if rb.length < frameTotal rb then .headerValidated
      else .dispatch := by
  cases rb with
  | nil => rfl
  | cons a rb =>
    simp only [List.head?_cons, ne_eq, Option.some.injEq]
    rfl

/-- Everything the phase of an RB can be, with the condition of each (R26). -/
theorem phase_cases (rb : Buffer) :
    (rb.head? ≠ some Config.sync ∧ phase rb = .seeking) ∨
    (rb.head? = some Config.sync ∧ rb.length < 7 ∧ phase rb = .headerPending) ∨
    (rb.head? = some Config.sync ∧ 7 ≤ rb.length ∧ ¬ HeaderOk rb ∧ phase rb = .headerReject) ∨
    (rb.head? = some Config.sync ∧ 7 ≤ rb.length ∧ HeaderOk rb ∧ rb.length < frameTotal rb ∧
      phase rb = .headerValidated) ∨
    (rb.head? = some Config.sync ∧ 7 ≤ rb.length ∧ HeaderOk rb ∧ frameTotal rb ≤ rb.length ∧
      phase rb = .dispatch) := by
  rw [phase_eq]
  by_cases hsync : rb.head? = some Config.sync
  case neg => exact .inl ⟨hsync, if_pos hsync⟩
  rw [if_neg (not_not.2 hsync)]
  by_cases hlen : rb.length < 7
  case pos => exact .inr (.inl ⟨hsync, hlen, if_pos hlen⟩)
  rw [if_neg hlen]
  by_cases hheader : HeaderOk rb
  case neg => exact .inr (.inr (.inl ⟨hsync, not_lt.1 hlen, hheader, if_pos hheader⟩))
  rw [if_neg (not_not.2 hheader)]
  by_cases htotal : rb.length < frameTotal rb
  case pos => exact .inr (.inr (.inr (.inl ⟨hsync, not_lt.1 hlen, hheader, htotal, if_pos htotal⟩)))
  case neg => exact .inr (.inr (.inr (.inr ⟨hsync, not_lt.1 hlen, hheader, not_lt.1 htotal, if_neg htotal⟩)))

/-- Invariant (a) of R22 with the sync byte read as RB's head, as R26 reads it. -/
theorem atRest_iff_head? (rb : Buffer) :
    AtRest rb ↔ rb = [] ∨ (rb.head? = some Config.sync ∧
      (rb.length < 7 ∨ (HeaderOk rb ∧ rb.length < frameTotal rb))) := by
  rw [head?_eq_some_iff_readAt, and_assoc]
  rfl

/-- At rest the block waits: for a first byte, for the rest of a header, or for the rest of a frame (R27). -/
theorem atRest_iff_phase (rb : Buffer) :
    AtRest rb ↔ (phase rb = .seeking ∧ rb = []) ∨ phase rb = .headerPending ∨ phase rb = .headerValidated := by
  rw [atRest_iff_head?]
  obtain ⟨hsync, hphase⟩ | ⟨hsync, hlen, hphase⟩ | ⟨hsync, hlen, hheader, hphase⟩ |
    ⟨hsync, hlen, hheader, htotal, hphase⟩ | ⟨hsync, hlen, hheader, htotal, hphase⟩ := phase_cases rb
  · simp only [hphase, hsync, true_and, false_and, or_false, reduceCtorEq]
  · exact iff_of_true (.inr ⟨hsync, .inl hlen⟩) (.inr (.inl hphase))
  · have hne : rb ≠ [] := by rintro rfl; simp at hsync
    simp [hphase, hheader, hne, hlen]
  · exact iff_of_true (.inr ⟨hsync, .inr ⟨hheader, htotal⟩⟩) (.inr (.inr hphase))
  · have hne : rb ≠ [] := by rintro rfl; simp at hsync
    simp [hphase, hne, hlen, htotal]

end Sys2Proof.Machine
end

section
/-! The statements of 10_state.md: a step, the one response, the storage, the phases. -/

namespace Sys2Proof.Proofs
open Sys2Proof.Machine

/-- Settles O8. -/
theorem stepRunsTheDecodedMove : Obligations.StepRunsTheDecodedMove := by
  unfold Obligations.StepRunsTheDecodedMove
  intro s m rest hpending
  exact step_of_pending hpending

/-- Settles O10: after the move is taken, each of the five rows a transfer decodes to completes with its outputs known
and its response last. RB at rest is what gives RXB its room. -/
theorem eachCommandEmitsOneResponseLast : Obligations.EachCommandEmitsOneResponseLast := by
  unfold Obligations.EachCommandEmitsOneResponseLast
  intro s m rest hrest hpending
  rw [step_of_pending hpending]
  cases m with
  | rst => exact ⟨_, exec_rst _, rfl, rfl⟩
  | transfer bytes =>
    dsimp only [decodeMove]
    obtain ⟨b, hdecode⟩ | hdecode | ⟨ty, data, opt, hdecode⟩ | ⟨input, hdecode⟩ | hdecode := decode_cases bytes
    all_goals rw [hdecode]
    · have hroom : s.rb.length < Config.bufCap := hrest.length_lt
      obtain ⟨evs, t, hexec, -, hout, hpend, -⟩ := completesWith_rxb (s := { s with pending := rest }) b hroom
      exact ⟨t, hexec, hpend, evs.map Output.evt, [0x00], by simp [hout], by simp, by simp, by simp, rfl⟩
    · obtain ⟨evs, t, hexec, -, hout, hpend, -⟩ := completesWith_eoc { s with pending := rest }
      exact ⟨t, hexec, hpend, evs.map Output.evt, [0x00], by simp [hout], by simp, by simp, by simp, rfl⟩
    · by_cases hrange : data.length ≤ Config.maxData ∧ opt.length ≤ Config.maxOpt
      · obtain ⟨t, hexec, -, hout, hpend, -⟩ := completesWith_txf_of_inRange (t := ty) { s with pending := rest } hrange
        exact ⟨t, hexec, hpend, [.txd _], [0x00], hout.trans (List.append_assoc _ [_] [_]).symm,
          by simp, by simp, by simp, .inl rfl⟩
      · obtain ⟨t, hexec, -, hout, hpend, -⟩ := completesWith_txf_of_tooLong (t := ty) { s with pending := rest } hrange
        exact ⟨t, hexec, hpend, [], [0x01, _], by simpa using hout, by simp, by simp, by simp, .inr ⟨_, rfl⟩⟩
    · obtain ⟨t, hexec, -, hout, hpend, -⟩ := completesWith_cks input { s with pending := rest }
      exact ⟨t, hexec, hpend, [], _, by simpa using hout, by simp, by simp, by simp, rfl⟩
    · obtain ⟨t, hexec, -, hout, hpend, -⟩ := completesWith_reserved bytes { s with pending := rest }
      exact ⟨t, hexec, hpend, [], _, by simpa using hout, by simp, by simp, by simp, rfl⟩

/-- Settles O13: RXB, and FEED through it, append only where there is room; every other row keeps RB or shortens it. -/
theorem everyInstructionKeepsTheBufferWithinCapacity : Obligations.EveryInstructionKeepsTheBufferWithinCapacity := by
  unfold Obligations.EveryInstructionKeepsTheBufferWithinCapacity
  intro i s t hs h
  cases i with
  | rxb b => exact withinCapacity_rxb h
  | eoc => exact withinCapacity_eoc hs h
  | txf ty data opt => rw [exec_txf_rb h]; exact hs
  | cks input => rw [(completesWith_cks input s).rb_eq h]; exact hs
  | reserved bytes => rw [(completesWith_reserved bytes s).rb_eq h]; exact hs
  | rst => cases h; exact withinCapacity_bufClear s
  | feed chunk => exact withinCapacity_feed hs h
  | checksum input => cases h; exact hs
  | decode f => rw [exec_decode_rb h]; exact hs
  | rxDiscard => exact withinCapacity_runSelected hs h
  | rxWaitHeader => exact withinCapacity_runSelected hs h
  | rxHdrSlip => exact withinCapacity_runSelected hs h
  | rxWaitPayload => exact withinCapacity_runSelected hs h
  | rxDeliver => exact withinCapacity_runSelected hs h
  | rxDropFrame => exact withinCapacity_runSelected hs h
  | rxValve => cases h; exact withinCapacity_rxValve hs

/-- Settles O45: the five conditions exclude one another and one of them holds, so each phase has exactly its own. -/
theorem phasesFollowTheirDefinition : Obligations.PhasesFollowTheirDefinition := by
  unfold Obligations.PhasesFollowTheirDefinition
  intro rb framed total headerOk
  have htotal : frameTotal rb = total := by rw [frameTotal_eq, ← Nat.add_assoc]
  have hcases := phase_cases rb
  rw [htotal] at hcases
  obtain ⟨hsync, hphase⟩ | ⟨hsync, hlen, hphase⟩ | ⟨hsync, hlen, hheader, hphase⟩ |
    ⟨hsync, hlen, hheader, hshort, hphase⟩ | ⟨hsync, hlen, hheader, hwhole, hphase⟩ := hcases
  case inl =>
    have hframed : ¬ framed := fun h => hsync h.1
    simp only [hphase, hsync, hframed, ne_eq, not_false_eq_true, or_true, false_and, reduceCtorEq, and_self]
  all_goals have hne : rb ≠ [] := by rintro rfl; cases hsync
  case inr.inl => simp [framed, hphase, hsync, hlen, hne]
  case inr.inr.inl => simp [framed, headerOk, hphase, hsync, hlen, hne, show ¬ headerOk from hheader]
  case inr.inr.inr.inl => simp [framed, hphase, hsync, hlen, hne, hshort, show headerOk from hheader]
  case inr.inr.inr.inr => simp [framed, hphase, hsync, hlen, hne, hwhole, show headerOk from hheader]

/-- Settles O46. -/
theorem restPhasesAreTheWaitingOnes : Obligations.RestPhasesAreTheWaitingOnes := by
  unfold Obligations.RestPhasesAreTheWaitingOnes
  exact ⟨atRest_iff_phase, fun s => (atRest_iff_phase _).1 (rxLoop_atRest s)⟩

end Sys2Proof.Proofs
end

section
/-! The reassembly buffer's primitives by offset, and what the valve, reset and RXB do at its bounds (20_memory.md R51
to R55, R62). -/

namespace Sys2Proof.Machine

/-! ### Offsets under an append and a drop (R51) -/

/-- An append puts its byte at the offset that was BufLen() (R53). -/
theorem bufRead_bufAppend_self (b : Byte) (s : State) : bufRead (bufAppend b s).rb (bufLen s.rb) = b := by
  have hread : readAt (s.rb ++ [b]) s.rb.length = readAt [b] (s.rb.length - s.rb.length) :=
    readAt_append_right [b] le_rfl (Nat.lt_succ_self _)
  rwa [Nat.sub_self, readAt_cons_zero] at hread

/-- An append moves no byte already held (R51, R53). -/
theorem bufRead_bufAppend_of_lt {s : State} (b : Byte) {i : Nat} (h : i < bufLen s.rb) :
    bufRead (bufAppend b s).rb i = bufRead s.rb i :=
  readAt_append_left [b] h

/-- A drop of `k` bytes moves the byte at offset `i` to offset `i - k` (R51, R54). -/
theorem bufRead_bufDrop {s : State} {k i : Nat} (hk : k ≤ i) (hi : i < bufLen s.rb) :
    bufRead (bufDrop k s).rb (i - k) = bufRead s.rb i := by
  have hdropped : i - k < (s.rb.drop k).length := by
    rw [List.length_drop]
    exact Nat.sub_lt_sub_right hk hi
  calc readAt (s.rb.drop k) (i - k) = (s.rb.drop k)[i - k] := readAt_eq_getElem hdropped
    _ = s.rb[i] := by simp only [List.getElem_drop, Nat.add_sub_cancel' hk]
    _ = readAt s.rb i := (readAt_eq_getElem hi).symm

/-! ### The bounds of RB (R62) -/

/-- At rest RB lacks at least the last byte of the longest frame (R62). -/
theorem AtRest.length_le {rb : Buffer} (h : AtRest rb) : rb.length ≤ 65796 := by
  have hlt := h.length_lt
  rw [Config.maxFrame_eq] at hlt
  exact Nat.le_of_lt_succ hlt

/-- The valve adds no byte to RB, whichever of its two branches runs (R62, R149). -/
theorem rxValve_length_le (s : State) : (rxValve s).rb.length ≤ s.rb.length := by
  obtain ⟨⟨-, hrb, -⟩ | ⟨-, hrb, -⟩, -⟩ := rxValve_spec s
  · rw [hrb]; exact Nat.zero_le _
  · rw [hrb]

/-- RX_VALVE run on its own is the valve and the end of an action (R149; log entry 10). -/
theorem exec_rxValve (s : State) : exec .rxValve s = .next (release (rxValve s)) := rfl

/-- RXB where the append finds RB full (R53; log entry 7). -/
theorem exec_rxb_of_full {b : Byte} {s : State} (h : Config.bufCap ≤ s.rb.length) :
    exec (.rxb b) s = .fault .bufferFull :=
  if_neg fun hroom => Nat.not_lt.2 h ((bufHasRoom_iff s.rb).1 hroom)

end Sys2Proof.Machine
end

section
/-! The statements of 20_memory.md: the offsets of RB, its bound, and the append that finds it full. -/

namespace Sys2Proof.Proofs
open Sys2Proof.Machine

/-- Settles O32: RB at rest is shorter than the longest frame, and `BUF_CAP` is that frame's length, so there is always
room for one more byte. -/
theorem appendNeverFindsTheBufferFull : Obligations.AppendNeverFindsTheBufferFull := by
  unfold Obligations.AppendNeverFindsTheBufferFull
  refine ⟨rfl, Config.bufCap_eq, fun s => (rxLoop_atRest s).length_le, ?rest, ?valve, ?reset⟩
  case rest =>
    intro s b hrest
    have hroom : s.rb.length < Config.bufCap := hrest.length_lt
    exact ⟨hrest.length_le, withinCapacity_bufAppend b ((bufHasRoom_iff s.rb).2 hroom), _, exec_rxb_of_room hroom⟩
  case valve =>
    intro s t h
    obtain rfl : release (rxValve s) = t := Host.Outcome.next.inj ((exec_rxValve s).symm.trans h)
    exact rxValve_length_le s
  case reset =>
    intro s t h
    obtain rfl := Host.Outcome.next.inj ((exec_rst s).symm.trans h)
    exact Nat.zero_le _

/-- Settles O31. -/
theorem offsetsFollowAppendsAndDrops : Obligations.OffsetsFollowAppendsAndDrops := by
  unfold Obligations.OffsetsFollowAppendsAndDrops
  intro s b k i
  exact ⟨List.length_append, bufRead_bufAppend_self b s, bufRead_bufAppend_of_lt b, bufRead_bufDrop,
    fun _ => List.length_drop, rfl⟩

/-- Settles O49. -/
theorem rxbOnAFullBufferFaults : Obligations.RxbOnAFullBufferFaults := by
  unfold Obligations.RxbOnAFullBufferFaults
  intro b s hfull
  exact exec_rxb_of_full hfull

end Sys2Proof.Proofs
end

section
/-! The transfer table of 30_encoding.md R75 as a relation between transfers and instructions, and that the decoder is
its function (R78 to R81). -/

namespace Sys2Proof

/-! ### The rows of R75 and their counts -/

/-- `Carries t i`: the transfer `t` is written as R75's row of the command `i` says, or is one of R80's and `i` is the
(reserved) row. -/
inductive Carries : List Byte → Instr → Prop where
  | rxb (b : Byte) : Carries [Config.opRxb, b] (.rxb b)
  | eoc : Carries [Config.opEoc] .eoc
  | txf (ty d3 d2 d1 d0 o1 o0 : Byte) {data opt : List Byte} (hdata : data.length = (be32 d3 d2 d1 d0).toNat)
      (hopt : opt.length = (be16 o1 o0).toNat) :
      Carries (Config.opTxf :: ty :: d3 :: d2 :: d1 :: d0 :: o1 :: o0 :: (data ++ opt)) (.txf ty data opt)
  | cks (n3 n2 n1 n0 : Byte) {input : List Byte} (hinput : input.length = (be32 n3 n2 n1 n0).toNat) :
      Carries (Config.opCks :: n3 :: n2 :: n1 :: n0 :: input) (.cks input)
  | bad {t : List Byte} (h : badTransfer t = true) : Carries t (.reserved t)

theorem bigEndian_two (hi lo : Byte) : bigEndian [hi, lo] = (be16 hi lo).toNat := by
  rw [be16_toNat]
  simp [bigEndian]

theorem bigEndian_four (b3 b2 b1 b0 : Byte) : bigEndian [b3, b2, b1, b0] = (be32 b3 b2 b1 b0).toNat := by
  rw [be32_toNat]
  simp only [bigEndian, List.foldl_cons, List.foldl_nil]
  omega

/-! ### The transfers of R80, row by row -/

theorem badTransfer_rxb_iff (args : List Byte) : badTransfer (Config.opRxb :: args) = true ↔ args.length ≠ 1 := by
  simp [badTransfer]

theorem badTransfer_eoc_iff (args : List Byte) : badTransfer (Config.opEoc :: args) = true ↔ args ≠ [] := by
  simp [badTransfer]

/-- A TXF transfer too short for its counts. -/
theorem badTransfer_txf_of_short {args : List Byte} (h : args.length < 7) :
    badTransfer (Config.opTxf :: args) = true := by
  have hlen : (Config.opTxf :: args).length < 8 := Nat.succ_lt_succ h
  exact decide_eq_true (.inl hlen)

/-- A TXF transfer whose counts are not those of the bytes that follow them. -/
theorem badTransfer_txf_iff (ty d3 d2 d1 d0 o1 o0 : Byte) (body : List Byte) :
    badTransfer (Config.opTxf :: ty :: d3 :: d2 :: d1 :: d0 :: o1 :: o0 :: body) = true ↔
      body.length ≠ (be32 d3 d2 d1 d0).toNat + (be16 o1 o0).toNat := by
  simp [badTransfer, bigEndian_four, bigEndian_two]
  omega

/-- A CKS transfer too short for its count. -/
theorem badTransfer_cks_of_short {args : List Byte} (h : args.length < 4) :
    badTransfer (Config.opCks :: args) = true := by
  have hlen : (Config.opCks :: args).length < 5 := Nat.succ_lt_succ h
  exact decide_eq_true (.inl hlen)

/-- A CKS transfer whose count is not that of the bytes that follow it. -/
theorem badTransfer_cks_iff (n3 n2 n1 n0 : Byte) (body : List Byte) :
    badTransfer (Config.opCks :: n3 :: n2 :: n1 :: n0 :: body) = true ↔ body.length ≠ (be32 n3 n2 n1 n0).toNat := by
  simp [badTransfer, bigEndian_four]
  omega

/-! ### The decoder, row by row -/

/-- TXF decoding once the counts are read (R78, R80). -/
theorem decode_txf_fields (ty d3 d2 d1 d0 o1 o0 : Byte) (body : List Byte) :
    decode (Config.opTxf :: ty :: d3 :: d2 :: d1 :: d0 :: o1 :: o0 :: body) =
      if body.length = (be32 d3 d2 d1 d0).toNat + (be16 o1 o0).toNat then
        .txf ty (slice body 0 (be32 d3 d2 d1 d0).toNat)
          (slice body (be32 d3 d2 d1 d0).toNat ((be32 d3 d2 d1 d0).toNat + (be16 o1 o0).toNat))
      else .reserved (Config.opTxf :: ty :: d3 :: d2 :: d1 :: d0 :: o1 :: o0 :: body) := rfl

/-- CKS decoding once the count is read (R79, R80). -/
theorem decode_cks_fields (n3 n2 n1 n0 : Byte) (body : List Byte) :
    decode (Config.opCks :: n3 :: n2 :: n1 :: n0 :: body) =
      if body.length = (be32 n3 n2 n1 n0).toNat then .cks body
      else .reserved (Config.opCks :: n3 :: n2 :: n1 :: n0 :: body) := rfl

/-- Two slices that meet make up the sequence they cover (R10). -/
theorem slice_append_slice {s : List Byte} {a b : Nat} (h : s.length = a + b) :
    slice s 0 a ++ slice s a (a + b) = s := by
  have hrest : (s.drop a).length ≤ a + b - a := by rw [List.length_drop]; omega
  rw [slice_zero, slice, List.take_of_length_le hrest, List.take_append_drop]

theorem carries_decode_rxb (args : List Byte) :
    Carries (Config.opRxb :: args) (decode (Config.opRxb :: args)) := by
  match args with
  | [b] => exact .rxb b
  | [] => exact .bad ((badTransfer_rxb_iff _).2 (by simp))
  | _ :: _ :: _ => exact .bad ((badTransfer_rxb_iff _).2 (by simp))

theorem carries_decode_eoc (args : List Byte) :
    Carries (Config.opEoc :: args) (decode (Config.opEoc :: args)) := by
  match args with
  | [] => exact .eoc
  | _ :: _ => exact .bad ((badTransfer_eoc_iff _).2 (List.cons_ne_nil _ _))

theorem carries_decode_txf (args : List Byte) :
    Carries (Config.opTxf :: args) (decode (Config.opTxf :: args)) := by
  match args with
  | ty :: d3 :: d2 :: d1 :: d0 :: o1 :: o0 :: body =>
    rw [decode_txf_fields]
    split
    case isTrue hbody =>
      have hrow := Carries.txf ty d3 d2 d1 d0 o1 o0 (data := slice body 0 (be32 d3 d2 d1 d0).toNat)
        (opt := slice body (be32 d3 d2 d1 d0).toNat ((be32 d3 d2 d1 d0).toNat + (be16 o1 o0).toNat))
        (by rw [slice_length]; omega) (by rw [slice_length]; omega)
      rwa [slice_append_slice hbody] at hrow
    case isFalse hbody => exact .bad ((badTransfer_txf_iff ..).2 hbody)
  | [] | [_] | [_, _] | [_, _, _] | [_, _, _, _] | [_, _, _, _, _] | [_, _, _, _, _, _] =>
    exact .bad (badTransfer_txf_of_short (by simp))

theorem carries_decode_cks (args : List Byte) :
    Carries (Config.opCks :: args) (decode (Config.opCks :: args)) := by
  match args with
  | n3 :: n2 :: n1 :: n0 :: body =>
    rw [decode_cks_fields]
    split
    case isTrue hbody => exact .cks n3 n2 n1 n0 hbody
    case isFalse hbody => exact .bad ((badTransfer_cks_iff ..).2 hbody)
  | [] | [_] | [_, _] | [_, _, _] => exact .bad (badTransfer_cks_of_short (by simp))

/-- The decoder is sound: what it reads stands in the table (R81). -/
theorem carries_decode (t : List Byte) : Carries t (decode t) := by
  cases t with
  | nil => exact .bad rfl
  | cons op args =>
    by_cases hrxb : op = Config.opRxb
    · rw [hrxb]; exact carries_decode_rxb args
    by_cases heoc : op = Config.opEoc
    · rw [heoc]; exact carries_decode_eoc args
    by_cases htxf : op = Config.opTxf
    · rw [htxf]; exact carries_decode_txf args
    by_cases hcks : op = Config.opCks
    · rw [hcks]; exact carries_decode_cks args
    have hbad : badTransfer (op :: args) = true := by
      simp only [badTransfer, List.head?_cons, if_neg hrxb, if_neg heoc, if_neg htxf, if_neg hcks]
    have hdecode : decode (op :: args) = .reserved (op :: args) := by
      simp only [decode, if_neg hrxb, if_neg heoc, if_neg htxf, if_neg hcks]
    rw [hdecode]
    exact .bad hbad

/-- A transfer written as a command's row says is none of R80's. -/
theorem Carries.eq_reserved {t : List Byte} {i : Instr} (h : Carries t i) (hbad : badTransfer t = true) :
    i = .reserved t := by
  cases h with
  | rxb b => exact absurd rfl ((badTransfer_rxb_iff [b]).1 hbad)
  | eoc => exact absurd rfl ((badTransfer_eoc_iff []).1 hbad)
  | txf ty d3 d2 d1 d0 o1 o0 hdata hopt =>
    exact absurd (by rw [List.length_append, hdata, hopt]) ((badTransfer_txf_iff ..).1 hbad)
  | cks n3 n2 n1 n0 hinput => exact absurd hinput ((badTransfer_cks_iff ..).1 hbad)
  | bad _ => rfl

/-- R80, R81: a transfer of R80 decodes to the (reserved) row. -/
theorem decode_of_badTransfer {t : List Byte} (h : badTransfer t = true) : decode t = .reserved t :=
  (carries_decode t).eq_reserved h

/-- TXF decoding of a transfer given field by field (R78). -/
theorem decode_txf_of_counts (ty d3 d2 d1 d0 o1 o0 : Byte) {data opt : List Byte}
    (hdata : data.length = (be32 d3 d2 d1 d0).toNat) (hopt : opt.length = (be16 o1 o0).toNat) :
    decode (Config.opTxf :: ty :: d3 :: d2 :: d1 :: d0 :: o1 :: o0 :: (data ++ opt)) = .txf ty data opt := by
  have hdataSlice : slice (data ++ opt) 0 data.length = data := by rw [slice_zero, List.take_left]
  have hoptSlice : slice (data ++ opt) data.length (data.length + opt.length) = opt := by
    rw [slice, List.drop_left, Nat.add_sub_cancel_left, List.take_length]
  rw [decode_txf_fields, ← hdata, ← hopt, if_pos List.length_append, hdataSlice, hoptSlice]

/-- The decoder is complete: it reads everything the table says (R81). -/
theorem Carries.decode_eq {t : List Byte} {i : Instr} (h : Carries t i) : decode t = i := by
  cases h with
  | rxb b => rfl
  | eoc => rfl
  | txf ty d3 d2 d1 d0 o1 o0 hdata hopt => exact decode_txf_of_counts ty d3 d2 d1 d0 o1 o0 hdata hopt
  | cks n3 n2 n1 n0 hinput => rw [decode_cks_fields, if_pos hinput]
  | bad hbad => exact decode_of_badTransfer hbad

/-- R81: the (reserved) row is for the transfers of R80 alone. -/
theorem decode_eq_reserved_iff (t : List Byte) : decode t = .reserved t ↔ badTransfer t = true := by
  constructor
  case mpr => exact decode_of_badTransfer
  case mp =>
    intro h
    have hrow := carries_decode t
    rw [h] at hrow
    cases hrow with
    | bad hbad => exact hbad

/-! ### The encoder against the table (R75) -/

/-- A value of two bytes, written as a number and then as a word (R57). -/
theorem bytes16_of_eq_be16 {n : Nat} {hi lo : Byte} (h : n = (be16 hi lo).toNat) :
    bytes16 (BitVec.ofNat 16 n) = [hi, lo] := by
  rw [h, BitVec.ofNat_toNat, BitVec.setWidth_eq, bytes16_be16]

theorem bytes32_of_eq_be32 {n : Nat} {b3 b2 b1 b0 : Byte} (h : n = (be32 b3 b2 b1 b0).toNat) :
    bytes32 (BitVec.ofNat 32 n) = [b3, b2, b1, b0] := by
  rw [h, BitVec.ofNat_toNat, BitVec.setWidth_eq, bytes32_be32]

/-- Encoding what a transfer carries gives the transfer back: no row of R75 loses a byte. -/
theorem Carries.encode_eq {t : List Byte} {i : Instr} (h : Carries t i) : encode i = [.transfer t] := by
  cases h with
  | rxb b => rfl
  | eoc => rfl
  | txf ty d3 d2 d1 d0 o1 o0 hdata hopt =>
    rw [encode, encodeTxf, bytes32_of_eq_be32 hdata, bytes16_of_eq_be16 hopt]
    simp
  | cks n3 n2 n1 n0 hinput =>
    rw [encode, encodeCks, bytes32_of_eq_be32 hinput]
    rfl
  | bad _ => rfl

theorem wellFormed_txf_iff (ty : PType) (data opt : List Byte) :
    wellFormed (.txf ty data opt) = true ↔ data.length < 2 ^ 32 ∧ opt.length < 2 ^ 16 := decide_eq_true_iff

theorem wellFormed_cks_iff (input : List Byte) : wellFormed (.cks input) = true ↔ input.length < 2 ^ 32 :=
  decide_eq_true_iff

/-- What a transfer carries is well formed: its counts came out of their fields. -/
theorem Carries.wellFormed {t : List Byte} {i : Instr} (h : Carries t i) : wellFormed i = true := by
  cases h with
  | rxb b => rfl
  | eoc => rfl
  | txf ty d3 d2 d1 d0 o1 o0 hdata hopt =>
    exact (wellFormed_txf_iff ..).2 ⟨hdata ▸ BitVec.isLt _, hopt ▸ BitVec.isLt _⟩
  | cks n3 n2 n1 n0 hinput => exact (wellFormed_cks_iff _).2 (hinput ▸ BitVec.isLt _)
  | bad hbad => exact hbad

/-- The TXF transfer of counts that fit their fields is TXF's row of R75. -/
theorem carries_encodeTxf {ty : PType} {data opt : List Byte} (h : wellFormed (.txf ty data opt) = true) :
    Carries (encodeTxf ty data opt) (.txf ty data opt) := by
  obtain ⟨hdata, hopt⟩ := (wellFormed_txf_iff ..).1 h
  have hrow := Carries.txf ty _ _ _ _ _ _ (data := data) (opt := opt)
    (by rw [be32_bytes32 (BitVec.ofNat 32 data.length), BitVec.toNat_ofNat, Nat.mod_eq_of_lt hdata])
    (by rw [be16_bytes16 (BitVec.ofNat 16 opt.length), BitVec.toNat_ofNat, Nat.mod_eq_of_lt hopt])
  rw [encodeTxf, List.append_assoc]
  exact hrow

/-- The CKS transfer of a count that fits its field is CKS's row of R75. -/
theorem carries_encodeCks {input : List Byte} (h : wellFormed (.cks input) = true) :
    Carries (encodeCks input) (.cks input) := by
  have hrow := Carries.cks _ _ _ _ (input := input)
    (by rw [be32_bytes32 (BitVec.ofNat 32 input.length), BitVec.toNat_ofNat,
      Nat.mod_eq_of_lt ((wellFormed_cks_iff _).1 h)])
  exact hrow

end Sys2Proof

namespace Sys2Proof.Machine

/-- The (reserved) row answers ERR_BADCMD and does nothing else, whatever the transfer (R80, R187). -/
theorem exec_reserved (transfer : List Byte) (s : State) :
    exec (.reserved transfer) s = .next (respond .errBadCmd s) := rfl

end Sys2Proof.Machine
end

section
/-! Every event has one of the codes of 30_encoding.md R83, whichever instruction emits it. -/

namespace Sys2Proof.Machine

/-- R83: each kind of event is written with its code first. -/
theorem legalEvent_eventBytes (e : Event) : LegalEvent (eventBytes e) := by
  cases e with
  | unexp b => simp [eventBytes]
  | hdrBad h1 h2 h3 h4 rx ck => simp [eventBytes]
  | payBad t len opt rx ck => simp [eventBytes]
  | ovfl n => simp [eventBytes]
  | pkt p => simp [eventBytes]

/-- Every event of a turn is one of R83's. -/
theorem legalEvent_of_mem_turnEvents {rb : Buffer} {a : RxAction} {transfer : List Byte}
    (h : transfer ∈ turnEvents rb a) : LegalEvent transfer := by
  cases a with
  | discard => rw [List.mem_singleton.1 h]; exact legalEvent_eventBytes _
  | waitHeader => cases h
  | hdrSlip => rw [List.mem_singleton.1 h]; exact legalEvent_eventBytes _
  | waitPayload => cases h
  | deliver => rw [List.mem_singleton.1 h]; exact legalEvent_eventBytes _
  | dropFrame => rw [List.mem_singleton.1 h]; exact legalEvent_eventBytes _

/-- What adds no event keeps the events legal. -/
theorem EventsLegal.of_evtTrace_eq {s t : State} (hs : EventsLegal s) (h : evtTrace t = evtTrace s) :
    EventsLegal t := by
  rw [EventsLegal, h]
  exact hs

/-- What adds legal events alone keeps the events legal. -/
theorem EventsLegal.of_events {s t : State} {evs : List (List Byte)} (hs : EventsLegal s)
    (h : evtTrace t = evtTrace s ++ evs) (hevs : ∀ transfer ∈ evs, LegalEvent transfer) : EventsLegal t := by
  rw [EventsLegal, h]
  exact List.forall_mem_append.2 ⟨hs, hevs⟩

/-! ### The reassembler -/

theorem eventsLegal_rxTurn {s : State} (hs : EventsLegal s) : EventsLegal (rxTurn s) := by
  obtain ⟨-, hout, -⟩ := rxTurn_spec s
  exact hs.of_events (evtTrace_of_events hout) fun _ => legalEvent_of_mem_turnEvents

theorem eventsLegal_rxLoop {s : State} (hs : EventsLegal s) : EventsLegal (rxLoop s) := by
  induction s using rxLoop_induction with
  | stop s hstop =>
    rw [rxLoop_eq, if_pos hstop]
    exact eventsLegal_rxTurn hs
  | turn s hturn ih =>
    rw [rxLoop_eq, if_neg (Bool.eq_false_iff.1 hturn)]
    exact ih (eventsLegal_rxTurn hs)

/-- The valve emits OVFL or nothing (R149). -/
theorem eventsLegal_rxValve {s : State} (hs : EventsLegal s) : EventsLegal (rxValve s) := by
  obtain ⟨⟨-, -, hout⟩ | ⟨-, -, hout⟩, -⟩ := rxValve_spec s
  · refine hs.of_events (evtTrace_of_events (evs := [eventBytes (.ovfl s.rb.length)]) hout) fun transfer h => ?_
    rw [List.mem_singleton.1 h]
    exact legalEvent_eventBytes _
  · exact hs.of_evtTrace_eq (congrArg (List.filterMap evtOf) hout)

/-- An RX action run on its own is a turn of the loop or is refused (log entry 9). -/
theorem eventsLegal_runSelected {a : RxAction} {s t : State} (hs : EventsLegal s) (h : runSelected a s = .next t) :
    EventsLegal t := by
  obtain ⟨-, hrun⟩ | ⟨-, hrun⟩ := runSelected_spec a s
  · obtain rfl : rxTurn s = t := Host.Outcome.next.inj (hrun.symm.trans h)
    exact eventsLegal_rxTurn hs
  · cases hrun.symm.trans h

/-! ### The commands -/

theorem eventsLegal_rxb {b : Byte} {s t : State} (hs : EventsLegal s) (h : exec (.rxb b) s = .next t) :
    EventsLegal t := by
  obtain ⟨-, rfl⟩ := exec_rxb_next h
  have hloop : EventsLegal (rxLoop (bufAppend b s)) := eventsLegal_rxLoop (hs.of_evtTrace_eq (evtTrace_bufAppend b s))
  exact hloop.of_evtTrace_eq (evtTrace_respond _ _)

theorem eventsLegal_eoc {s t : State} (hs : EventsLegal s) (h : exec .eoc s = .next t) : EventsLegal t := by
  obtain rfl := Host.Outcome.next.inj ((exec_eoc s).symm.trans h)
  exact (eventsLegal_rxValve (eventsLegal_rxLoop hs)).of_evtTrace_eq (by rw [evtTrace_respond, evtTrace_release])

/-- FEED, along its expansion into RXBs and one EOC (R87). -/
theorem eventsLegal_feed {chunk : List Byte} {s t : State} (hs : EventsLegal s)
    (h : exec (.feed chunk) s = .next t) : EventsLegal t := by
  induction chunk generalizing s with
  | nil => exact eventsLegal_eoc hs h
  | cons b chunk ih =>
    obtain ⟨u, hb, hrest⟩ := exec_feed_cons_next h
    exact ih (eventsLegal_rxb hs hb) hrest

/-- The EVT trace after an instruction whose outputs are known. -/
theorem CompletesWith.evtTrace_eq {i : Instr} {s t : State} {rb : Buffer} {outs : List Output}
    (hc : CompletesWith i s rb outs) (h : exec i s = .next t) : evtTrace t = evtTrace s ++ outs.filterMap evtOf := by
  obtain ⟨u, hu, -, hout, -⟩ := hc
  obtain rfl : u = t := Host.Outcome.next.inj (hu.symm.trans h)
  rw [evtTrace, hout, List.filterMap_append, evtTrace]

/-- TXF emits no event, whatever its counts (R122, R123). -/
theorem exec_txf_evtTrace {ty : PType} {data opt : List Byte} {s t : State}
    (h : exec (.txf ty data opt) s = .next t) : evtTrace t = evtTrace s := by
  by_cases hrange : data.length ≤ Config.maxData ∧ opt.length ≤ Config.maxOpt
  · exact ((completesWith_txf_of_inRange s hrange).evtTrace_eq h).trans (List.append_nil _)
  · exact ((completesWith_txf_of_tooLong s hrange).evtTrace_eq h).trans (List.append_nil _)

/-- DECODE run on its own emits no event (R125). -/
theorem exec_decode_evtTrace {f : List Byte} {s t : State} (h : exec (.decode f) s = .next t) :
    evtTrace t = evtTrace s := by
  change (if ValidFrame f then _ else _) = _ at h
  split at h
  · cases h; rfl
  · cases h

end Sys2Proof.Machine
end

section
/-! The host's moves that FEED expands to, one step each (30_encoding.md R87). -/

namespace Sys2Proof.Machine

/-- A step takes the move put first, whatever was pending before. -/
theorem step_withPending (s : State) (m : HostMove) (rest : List HostMove) :
    step { s with pending := m :: rest } = exec (decodeMove m) { s with pending := rest } :=
  step_of_pending (s := { s with pending := m :: rest }) rfl

/-- A step that completes is followed by the steps left. -/
theorem steps_succ_of_next {k : Nat} {s t : State} (h : step s = .next t) : steps (k + 1) s = steps k t := by
  rw [steps, h]

/-- A step that faults ends the run. -/
theorem steps_succ_of_fault {k : Nat} {s : State} {r : Fault} (h : step s = .fault r) :
    steps (k + 1) s = .fault r := by
  rw [steps, h]

/-- A run of one step is that step, however it ends. -/
theorem steps_one (s : State) : steps 1 s = step s := by
  rw [steps]
  cases step s <;> rfl

/-- RXB has no part in the host's pending moves. -/
theorem exec_rxb_withPending {b : Byte} {s t : State} (p : List HostMove) (h : exec (.rxb b) s = .next t) :
    exec (.rxb b) { s with pending := p } = .next { t with pending := p } := by
  obtain ⟨hroom, rfl⟩ := exec_rxb_next h
  have hloop : rxLoop (bufAppend b { s with pending := p }) = { rxLoop (bufAppend b s) with pending := p } :=
    rxLoop_withPending (bufAppend b s) p
  rw [exec_rxb_of_room (s := { s with pending := p }) ((bufHasRoom_iff s.rb).1 hroom), hloop]
  rfl

/-- FEED stops where its first RXB faults (R87). -/
theorem exec_feed_cons_of_fault {b : Byte} {c : List Byte} {s : State} {r : Fault}
    (h : exec (.rxb b) s = .fault r) : exec (.feed (b :: c)) s = .fault r := by
  have hrxb : execRxb b s = .fault r := h
  show execFeed (b :: c) s = .fault r
  rw [execFeed, hrxb]

end Sys2Proof.Machine
end

section
/-! The statements of 30_encoding.md about the decoder and the encoder. -/

namespace Sys2Proof.Proofs
open Sys2Proof.Machine

/-- Settles O2. The decoder's answer stands in R75's table, and every row of the table can be encoded back. -/
theorem decodingATransferIsTotalAndLossless : Obligations.DecodingATransferIsTotalAndLossless := by
  unfold Obligations.DecodingATransferIsTotalAndLossless
  intro t
  have hrow : Carries t (decode t) := carries_decode t
  exact ⟨decode_cases t, decode_eq_reserved_iff t, hrow.encode_eq, hrow.wellFormed⟩

/-- Settles O3: what the encoder writes for a well-formed command stands in R75's table, which the decoder reads. -/
theorem encodingThenDecodingGivesTheInstruction : Obligations.EncodingThenDecodingGivesTheInstruction := by
  unfold Obligations.EncodingThenDecodingGivesTheInstruction
  have hsingle : ∀ {t : List Byte} {i : Instr}, Carries t i → [HostMove.transfer t].map decodeMove = [i] :=
    fun h => congrArg (fun j => [j]) h.decode_eq
  refine ⟨fun b => hsingle (.rxb b), hsingle .eoc, fun t data opt h => hsingle (carries_encodeTxf h),
    fun input h => hsingle (carries_encodeCks h), fun t h => hsingle (.bad h), rfl, ?feed, fun _ => rfl, fun _ => rfl,
    ?rxActions⟩
  case feed =>
    intro chunk
    induction chunk with
    | nil => rfl
    | cons b chunk ih => exact congrArg (Instr.rxb b :: ·) ih
  case rxActions => decide

/-- Settles O4. -/
theorem cksTransferCarriesABigEndianCount : Obligations.CksTransferCarriesABigEndianCount := by
  unfold Obligations.CksTransferCarriesABigEndianCount
  intro n3 n2 n1 n0 input hinput
  exact (Carries.cks n3 n2 n1 n0 (hinput.trans (be32_toNat ..).symm)).decode_eq

/-- Settles O5. -/
theorem txfTransferCarriesTwoBigEndianCounts : Obligations.TxfTransferCarriesTwoBigEndianCounts := by
  unfold Obligations.TxfTransferCarriesTwoBigEndianCounts
  intro t d3 d2 d1 d0 o1 o0 data opt hdata hopt
  rw [List.append_assoc]
  exact decode_txf_of_counts t d3 d2 d1 d0 o1 o0 (hdata.trans (be32_toNat ..).symm)
    (hopt.trans (be16_toNat ..).symm)

/-- Settles O6. -/
theorem badTransfersGetErrBadCmdAndChangeNothing : Obligations.BadTransfersGetErrBadCmdAndChangeNothing := by
  unfold Obligations.BadTransfersGetErrBadCmdAndChangeNothing
  intro s t hbad
  exact ⟨decode_of_badTransfer hbad, exec_reserved t s⟩

/-- Settles O7: four transfers by their rows of R75, four by the way each is bad (R80). -/
theorem sampleTransfersDecode : Obligations.SampleTransfersDecode := by
  unfold Obligations.SampleTransfersDecode
  refine ⟨(Carries.rxb 0x55).decode_eq, Carries.eoc.decode_eq,
    (Carries.txf 0x0A 0 0 0 2 0 2 (data := [0x55, 0xAA]) (opt := [0x01, 0xFF]) rfl rfl).decode_eq,
    (Carries.cks 0 0 0 1 (input := [0x01]) rfl).decode_eq, ?empty, ?opcode, ?rxbLength, ?cksLength⟩
  case empty => exact decode_of_badTransfer rfl
  case opcode => exact decode_of_badTransfer (by decide)
  case rxbLength => exact decode_of_badTransfer ((badTransfer_rxb_iff [0x55, 0x00]).2 (by decide))
  case cksLength => exact decode_of_badTransfer ((badTransfer_cks_iff 0 0 0 2 [0x01]).2 (by decide))

/-- Settles O14: RXB, EOC, FEED, the RX actions and the valve emit events of R83 alone; every other row emits none. -/
theorem everyInstructionEmitsOnlyLegalEvents : Obligations.EveryInstructionEmitsOnlyLegalEvents := by
  unfold Obligations.EveryInstructionEmitsOnlyLegalEvents
  intro i s t hs h
  cases i with
  | rxb b => exact eventsLegal_rxb hs h
  | eoc => exact eventsLegal_eoc hs h
  | txf ty data opt => exact hs.of_evtTrace_eq (exec_txf_evtTrace h)
  | cks input => exact hs.of_evtTrace_eq (((completesWith_cks input s).evtTrace_eq h).trans (List.append_nil _))
  | reserved bytes =>
    exact hs.of_evtTrace_eq (((completesWith_reserved bytes s).evtTrace_eq h).trans (List.append_nil _))
  | rst => cases h; exact hs
  | feed chunk => exact eventsLegal_feed hs h
  | checksum input => cases h; exact hs
  | decode f => exact hs.of_evtTrace_eq (exec_decode_evtTrace h)
  | rxDiscard => exact eventsLegal_runSelected hs h
  | rxWaitHeader => exact eventsLegal_runSelected hs h
  | rxHdrSlip => exact eventsLegal_runSelected hs h
  | rxWaitPayload => exact eventsLegal_runSelected hs h
  | rxDeliver => exact eventsLegal_runSelected hs h
  | rxDropFrame => exact eventsLegal_runSelected hs h
  | rxValve => cases h; exact eventsLegal_rxValve hs

/-- Settles O52, by induction on the chunk: its first move is one step, which completes or faults as FEED's first RXB
does, the moves behind it having no part in that. -/
theorem feedRunsItsExpansion : Obligations.FeedRunsItsExpansion := by
  unfold Obligations.FeedRunsItsExpansion
  intro chunk rest s
  induction chunk generalizing s with
  | nil =>
    have hstep : step { s with pending := .transfer [0x02] :: rest } = exec .eoc { s with pending := rest } :=
      step_withPending s (.transfer [0x02]) rest
    rw [exec_feed_nil, ← hstep]
    exact steps_one _
  | cons b chunk ih =>
    have hstep := step_withPending s (.transfer [0x01, b])
      (chunk.map (fun b => HostMove.transfer [0x01, b]) ++ .transfer [0x02] :: rest)
    rw [List.length_cons, List.map_cons, List.cons_append]
    by_cases hroom : s.rb.length < Config.bufCap
    case pos =>
      have hrxb := exec_rxb_of_room (b := b) hroom
      rw [steps_succ_of_next (hstep.trans (exec_rxb_withPending _ hrxb)), ih,
        exec_feed_cons (exec_rxb_withPending rest hrxb)]
    case neg =>
      have hfault : ∀ p, exec (.rxb b) { s with pending := p } = .fault .bufferFull :=
        fun _ => exec_rxb_of_full (not_lt.1 hroom)
      rw [steps_succ_of_fault (hstep.trans (hfault _)), exec_feed_cons_of_fault (hfault rest)]

end Sys2Proof.Proofs
end

section
/-! The checksum's three forms are one function (40_checksum.md R100 to R102, R104). While the accumulator's low byte
is 0 the accumulator is its high byte shifted up, so the bit-serial form is the byte-wise one carried in the upper half
of a word; and the 16-bit word is what the unmasked accumulator leaves in its lowest 16 bits. -/

namespace Sys2Proof

/-- A slice one byte longer (R10). -/
theorem slice_succ {s : List Byte} {a b : Nat} (hab : a ≤ b) (hb : b < s.length) :
    slice s a (b + 1) = slice s a b ++ [Machine.readAt s b] := by
  have hlen : b - a < (s.drop a).length := by rw [List.length_drop]; omega
  have hget : (s.drop a)[b - a] = Machine.readAt s b := by
    rw [Machine.readAt_eq_getElem hb, List.getElem_drop]
    simp only [Nat.add_sub_cancel' hab]
  rw [slice, slice, Nat.succ_sub hab, ← List.take_append_getElem hlen, hget]

end Sys2Proof

namespace Sys2Proof.Machine

/-! ### An accumulator whose low byte is 0 -/

/-- The accumulator whose high byte is `c` and whose low byte is 0. An input byte enters the fold in this form
(R100). -/
def accOf (c : Byte) : Acc := c.setWidth Config.accW <<< Config.ckShift

theorem accOf_toNat (c : Byte) : (accOf c).toNat = c.toNat * 256 := by
  have hc := c.isLt
  simp only [accOf, Config.accW, Config.ckShift, BitVec.toNat_shiftLeft, BitVec.toNat_setWidth, Nat.shiftLeft_eq]
  omega

theorem accHigh_toNat (acc : Acc) : (accHigh acc).toNat = acc.toNat / 256 := by
  have hacc : acc.toNat < 2 ^ 16 := acc.isLt
  simp only [accHigh, Config.ckShift, BitVec.toNat_setWidth, BitVec.toNat_ushiftRight, Nat.shiftRight_eq_div_pow]
  omega

@[simp] theorem accHigh_accOf (c : Byte) : accHigh (accOf c) = c := by
  apply BitVec.eq_of_toNat_eq
  rw [accHigh_toNat, accOf_toNat, Nat.mul_div_cancel _ (by decide)]

@[simp] theorem accOf_low (c : Byte) : (accOf c).setWidth 8 = (0 : Byte) := by
  rw [accOf, BitVec.setWidth_shiftLeft_of_le (by decide)]
  exact BitVec.shiftLeft_eq_zero le_rfl

/-- With its low byte 0 an accumulator is its high byte and nothing else. -/
theorem accOf_accHigh {acc : Acc} (h : acc.setWidth 8 = (0 : Byte)) : accOf (accHigh acc) = acc := by
  have hlow : acc.toNat % 256 = 0 := (BitVec.toNat_setWidth 8 acc).symm.trans (congrArg BitVec.toNat h)
  apply BitVec.eq_of_toNat_eq
  rw [accOf_toNat, accHigh_toNat, Nat.div_mul_cancel (Nat.dvd_of_mod_eq_zero hlow)]

theorem accOf_xor (c d : Byte) : accOf c ^^^ accOf d = accOf (c ^^^ d) := by
  rw [accOf, accOf, accOf, BitVec.setWidth_xor, BitVec.shiftLeft_xor_distrib]

/-- The bit a shift takes out of the high byte leaves the accumulator too. -/
theorem accOf_shiftLeft_one (c : Byte) : accOf c <<< 1 = accOf (c <<< 1) := by
  apply BitVec.eq_of_toNat_eq
  simp only [accOf_toNat, Config.accW, BitVec.toNat_shiftLeft, Nat.shiftLeft_eq]
  omega

/-- Bit 15 is bit 7 of the high byte. -/
theorem accOf_getLsbD_top (c : Byte) : (accOf c).getLsbD (Config.accW - 1) = c.getLsbD 7 := by
  simp [accOf]

/-! ### The bit-serial form on such an accumulator is the byte-wise one (R102) -/

/-- R102's constant is R100's after the shift: bit 15 is lost, and bits 9, 8 and 7 become bits 2, 1 and 0 of the high
byte. -/
theorem ckXor_shiftLeft_one : Config.ckXor <<< 1 = accOf 0x07 := by decide

/-- One iteration: the shift distributes over the XOR that precedes it. -/
theorem ckBit_accOf (c : Byte) : ckBit (accOf c) = accOf (ck8Bit c) := by
  rw [ckBit, ck8Bit, accOf_getLsbD_top]
  cases c.getLsbD 7 with
  | false => exact accOf_shiftLeft_one c
  | true =>
    calc (accOf c ^^^ Config.ckXor) <<< 1
        = accOf c <<< 1 ^^^ Config.ckXor <<< 1 := BitVec.shiftLeft_xor_distrib _ _ 1
      _ = accOf (c <<< 1 ^^^ 0x07) := by rw [accOf_shiftLeft_one, ckXor_shiftLeft_one, accOf_xor]

theorem ckBits_accOf (n : Nat) (c : Byte) : ckBits n (accOf c) = accOf (ck8Bits n c) := by
  induction n generalizing c with
  | zero => rfl
  | succ n ih => rw [ckBits, ck8Bits, ckBit_accOf, ih]

theorem ckByte_accOf (c b : Byte) : ckByte (accOf c) b = accOf (ck8Bits Config.ckIterations (c ^^^ b)) :=
  (congrArg (ckBits _) (accOf_xor c b)).trans (ckBits_accOf _ _)

/-- The accumulator after any input holds CHECKSUM8 of it, and nothing else. -/
theorem checksumAcc_eq_accOf (s : List Byte) : checksumAcc s = accOf (checksum8 s) :=
  List.foldl_hom accOf (init := 0) ckByte_accOf

theorem checksum_eq_checksum8 (s : List Byte) : checksum s = checksum8 s := by
  rw [checksum, checksumAcc_eq_accOf, accHigh_accOf]

/-- The accumulator holds CHECKSUM of what was read, and nothing else. -/
theorem checksumAcc_eq_accOf_checksum (s : List Byte) : checksumAcc s = accOf (checksum s) := by
  rw [checksum_eq_checksum8, checksumAcc_eq_accOf]

/-! ### The unmasked accumulator, taken modulo 2^16 (R101) -/

theorem ofNat_shiftLeft (w a k : Nat) : BitVec.ofNat w (a <<< k) = BitVec.ofNat w a <<< k := by
  apply BitVec.eq_of_toNat_eq
  rw [BitVec.toNat_shiftLeft, BitVec.toNat_ofNat, BitVec.toNat_ofNat, Nat.shiftLeft_eq, Nat.shiftLeft_eq,
    Nat.mod_mul_mod]

/-- One iteration: it reads bit 15, and its XOR and its shift carry no bit downwards. -/
theorem ofNat_ckWideBit (a : Nat) : BitVec.ofNat Config.accW (ckWideBit a) = ckBit (BitVec.ofNat Config.accW a) := by
  have htop : (BitVec.ofNat Config.accW a).getLsbD (Config.accW - 1) = a.testBit (Config.accW - 1) := by
    rw [BitVec.getLsbD_ofNat]; rfl
  rw [ckWideBit, ckBit, htop, ofNat_shiftLeft]
  cases a.testBit (Config.accW - 1) with
  | false => rfl
  | true =>
    have hxor : BitVec.ofNat Config.accW (a ^^^ Config.ckXor.toNat) = BitVec.ofNat Config.accW a ^^^ Config.ckXor := by
      rw [BitVec.ofNat_xor, BitVec.ofNat_toNat, BitVec.setWidth_eq]
    rw [if_pos rfl, if_pos rfl, hxor]

theorem ofNat_ckWideBits (n a : Nat) :
    BitVec.ofNat Config.accW (ckWideBits n a) = ckBits n (BitVec.ofNat Config.accW a) := by
  induction n generalizing a with
  | zero => rfl
  | succ n ih => rw [ckWideBits, ckBits, ih, ofNat_ckWideBit]

/-- An input byte enters both accumulators alike. -/
theorem ofNat_xor_byte (a : Nat) (b : Byte) :
    BitVec.ofNat Config.accW (a ^^^ (b.toNat <<< Config.ckShift)) = BitVec.ofNat Config.accW a ^^^ accOf b := by
  rw [BitVec.ofNat_xor, ofNat_shiftLeft, BitVec.ofNat_toNat, accOf]

/-- Bits 15 to 8 of a number are the high byte of its lowest 16 bits. -/
theorem accHigh_ofNat (a : Nat) : accHigh (BitVec.ofNat Config.accW a) = BitVec.ofNat 8 (a >>> Config.ckShift) := by
  apply BitVec.eq_of_toNat_eq
  simp only [accHigh_toNat, Config.accW, Config.ckShift, BitVec.toNat_ofNat, Nat.shiftRight_eq_div_pow]
  omega

theorem checksumWide_eq_checksum (s : List Byte) : checksumWide s = checksum s := by
  have hbyte (a : Nat) (b : Byte) : ckByte (BitVec.ofNat Config.accW a) b =
      BitVec.ofNat Config.accW (ckWideBits Config.ckIterations (a ^^^ (b.toNat <<< Config.ckShift))) := by
    rw [ofNat_ckWideBits, ofNat_xor_byte]
    rfl
  rw [checksumWide, ← accHigh_ofNat, ← List.foldl_hom (BitVec.ofNat Config.accW) hbyte]
  rfl

/-! ### A sequence with its checksum behind it (R104) -/

theorem checksum_append_self (m : List Byte) : checksum (m ++ [checksum m]) = 0x00 := by
  have hcancel : accOf (checksum m) ^^^ accOf (checksum m) = 0 := BitVec.xor_self
  have hacc : checksumAcc (m ++ [checksum m]) = 0 := by
    rw [checksumAcc_append, checksumAcc_eq_accOf_checksum]
    exact (congrArg (ckBits _) hcancel).trans (ckBits_zero_acc _)
  rw [checksum, hacc]
  rfl

/-- A slice whose checksum is the byte behind it has, with that byte, checksum 0. -/
theorem checksum_slice_succ {s : List Byte} {a b : Nat} (hab : a ≤ b) (hb : b < s.length)
    (h : checksum (slice s a b) = readAt s b) : checksum (slice s a (b + 1)) = 0x00 := by
  rw [slice_succ hab hb, ← h, checksum_append_self]

/-- The shortest frames, of type `tt`: the header check is all that is left to hold. -/
theorem validFrame_empty_iff (tt hc : Byte) :
    ValidFrame [0x55, 0x00, 0x00, 0x00, tt, hc, 0x00] ↔ hc = checksum [0x00, 0x00, 0x00, tt] := by
  have htotal : frameTotal [0x55, 0x00, 0x00, 0x00, tt, hc, 0x00] = 7 := by simp [frameTotal_eq]
  rw [ValidFrame, htotal]
  constructor
  case mp =>
    rintro ⟨-, -, hheader, -⟩
    exact hheader.symm
  case mpr =>
    intro hheader
    exact ⟨le_rfl, rfl, hheader.symm, rfl, checksum_nil⟩

/-! ### The bit-serial form, as the rule writes it (R100) -/

/-- One iteration, in the rule's own constants. -/
theorem ckBit_eq (acc : Acc) : ckBit acc = (if acc.msb then acc ^^^ 0x8380 else acc) <<< 1 := by
  rw [ckBit, ← BitVec.msb_eq_getLsbD_last, Config.ckXor_eq]

theorem ckBits_eq_iterate (n : Nat) (acc : Acc) : ckBits n acc = ckBit^[n] acc := by
  induction n generalizing acc with
  | zero => rfl
  | succ n ih => exact ih (ckBit acc)

theorem checksumAcc_eq_foldl_iterate (s : List Byte) :
    checksumAcc s = s.foldl (fun (acc : Acc) (b : Byte) =>
      (fun a : Acc => (if a.msb then a ^^^ 0x8380 else a) <<< 1)^[8] (acc ^^^ (b.setWidth 16 <<< 8))) 0 := by
  refine List.foldl_ext _ _ _ fun acc b _ => ?_
  rw [ckByte, ckBits_eq_iterate, funext ckBit_eq]

/-- CHECKSUM run on its own (R100; log entry 6). -/
theorem exec_checksum (input : List Byte) (s : State) :
    exec (.checksum input) s =
      .next { s with wr := { s.wr with acc := checksumAcc input }, ret := .byte (checksum input) } := rfl

end Sys2Proof.Machine
end

section
/-! The statements of 40_checksum.md: the three forms, the self-check, and the two instructions. -/

namespace Sys2Proof.Proofs
open Sys2Proof.Machine

/-- Settles O18. -/
theorem checksumRunsTheBitSerialAlgorithm : Obligations.ChecksumRunsTheBitSerialAlgorithm := by
  unfold Obligations.ChecksumRunsTheBitSerialAlgorithm
  intro input s
  rw [exec_checksum, checksum, checksumAcc_eq_foldl_iterate]
  rfl

/-- Settles O19. The accumulator has only a high byte, before the byte and after each of its iterations. -/
theorem accumulatorLowByteStaysZero : Obligations.AccumulatorLowByteStaysZero := by
  unfold Obligations.AccumulatorLowByteStaysZero
  intro s b n
  have hstart : checksumAcc s ^^^ (b.setWidth 16 <<< 8) = accOf (checksum s ^^^ b) := by
    rw [checksumAcc_eq_accOf_checksum]
    exact accOf_xor (checksum s) b
  rw [hstart, ckBits_accOf, accOf_low]

/-- Settles O20. -/
theorem bitSerialChecksumIsTheBytewiseOne : Obligations.BitSerialChecksumIsTheBytewiseOne := by
  unfold Obligations.BitSerialChecksumIsTheBytewiseOne
  refine ⟨fun acc hlow => ?iteration, checksum_eq_checksum8⟩
  case iteration =>
    have hhigh : accHigh (ckBit acc) = ck8Bit (accHigh acc) := by
      rw [← accHigh_accOf (ck8Bit _), ← ckBit_accOf, accOf_accHigh hlow]
    rw [hhigh, ck8Bit, BitVec.msb_eq_getLsbD_last]

/-- Settles O21. -/
theorem unmaskedAccumulatorGivesTheSameChecksum : Obligations.UnmaskedAccumulatorGivesTheSameChecksum := by
  unfold Obligations.UnmaskedAccumulatorGivesTheSameChecksum
  exact checksumWide_eq_checksum

/-- Settles O22. A valid frame's header and payload each stand before their own checksum. -/
theorem appendingTheChecksumGivesZero : Obligations.AppendingTheChecksumGivesZero := by
  unfold Obligations.AppendingTheChecksumGivesZero
  refine ⟨checksum_append_self, fun f hvalid => ?frame, validFrame_empty_iff, checksum_nil⟩
  case frame =>
    obtain ⟨hmin, -, hheader, hlength, hpayload⟩ := hvalid
    rw [Config.minFrame_eq] at hmin
    have htotal : frameTotal f = (frameTotal f - 1) + 1 := by omega
    refine ⟨checksum_slice_succ (b := 5) (by omega) (by omega) hheader, ?payload⟩
    case payload =>
      rw [htotal]
      exact checksum_slice_succ (by omega) (by omega) hpayload

/-- Settles O23. -/
theorem cksRespondsWithTheChecksum : Obligations.CksRespondsWithTheChecksum := by
  unfold Obligations.CksRespondsWithTheChecksum
  exact ⟨completesWith_cks, checksum_nil⟩

end Sys2Proof.Proofs
end

section
/-! The frames TXF emits are exactly the valid frames, one for each packet with its lengths in range, and DECODE reads
the packet back (30_encoding.md R73; 41_frame_codec.md R124 to R128). -/

namespace Sys2Proof

/-- Two slices that meet are one slice (R10). -/
theorem slice_append_slice_of_le (s : List Byte) {a b c : Nat} (hab : a ≤ b) (hbc : b ≤ c) :
    slice s a b ++ slice s b c = slice s a c := by
  have hlen : c - a = (b - a) + (c - b) := by omega
  rw [slice, slice, slice, hlen, List.take_add, List.drop_drop, Nat.add_sub_cancel' hab]

/-- A slice of one byte is a read. -/
theorem slice_one {s : List Byte} {a : Nat} (h : a < s.length) : slice s a (a + 1) = [Machine.readAt s a] := by
  rw [slice_succ le_rfl h, slice, Nat.sub_self, List.take_zero, List.nil_append]

/-- A count that fits two bytes, written in them (R57). -/
theorem bytes16_ofNat {n : Nat} (h : n ≤ 65535) :
    bytes16 (BitVec.ofNat 16 n) = [BitVec.ofNat 8 (n / 256), BitVec.ofNat 8 n] := by
  rw [bytes16_eq, BitVec.toNat_ofNat, Nat.mod_eq_of_lt (by omega)]

end Sys2Proof

namespace Sys2Proof.Machine

/-- The last byte of a sequence, by its offset. -/
theorem readAt_concat_length (s : List Byte) (b : Byte) : readAt (s ++ [b]) s.length = b := by simp [readAt]

/-- The lengths of `p` fit the header's fields: the precondition of R122. -/
abbrev InRange (p : Packet) : Prop := p.data.length ≤ Config.maxData ∧ p.opt.length ≤ Config.maxOpt

/-! ### The fields of the frame of a packet (R70, R71) -/

theorem lenField_frameOf (p : Packet) : lenField (frameOf p) = BitVec.ofNat 16 p.data.length := be16_bytes16 _

theorem optField_frameOf (p : Packet) : optField (frameOf p) = BitVec.ofNat 8 p.opt.length := rfl

theorem ptypeField_frameOf (p : Packet) : ptypeField (frameOf p) = p.ptype := rfl

theorem lenField_frameOf_toNat {p : Packet} (h : InRange p) : (lenField (frameOf p)).toNat = p.data.length := by
  rw [lenField_frameOf, BitVec.toNat_ofNat]
  exact Nat.mod_eq_of_lt (Nat.lt_succ_of_le h.1)

theorem optField_frameOf_toNat {p : Packet} (h : InRange p) : (optField (frameOf p)).toNat = p.opt.length := by
  rw [optField_frameOf, BitVec.toNat_ofNat]
  exact Nat.mod_eq_of_lt (Nat.lt_succ_of_le h.2)

theorem frameTotal_eq_fields (f : List Byte) : frameTotal f = 7 + (lenField f).toNat + (optField f).toNat :=
  totalOf_toNat _ _

theorem frameTotal_frameOf {p : Packet} (h : InRange p) :
    frameTotal (frameOf p) = 7 + p.data.length + p.opt.length := by
  rw [frameTotal_eq_fields, lenField_frameOf_toNat h, optField_frameOf_toNat h]

theorem drop_frameOf (p : Packet) :
    (frameOf p).drop 6 = p.data ++ p.opt ++ [checksum (p.data ++ p.opt)] := rfl

theorem length_frameOf (p : Packet) : (frameOf p).length = 7 + p.data.length + p.opt.length := by
  simp only [frameOf, buildFrame, headerBytes, List.length_append, List.length_cons, List.length_nil, bytes16_length]
  omega

/-- In the byte layout of R70 the frame's header is any four bytes that hold the packet's lengths and type. -/
theorem frameBytes_eq_frameOf {h1 h2 h3 : Byte} (h4 : Byte) {data opt : List Byte}
    (hdata : data.length = h1.toNat * 256 + h2.toNat) (hopt : opt.length = h3.toNat) :
    frameBytes h1 h2 h3 h4 data opt (checksum (data ++ opt)) = frameOf { ptype := h4, data := data, opt := opt } := by
  have hlen : bytes16 (BitVec.ofNat 16 data.length) = [h1, h2] :=
    bytes16_of_eq_be16 (hdata.trans (be16_toNat h1 h2).symm)
  have hoptByte : BitVec.ofNat 8 opt.length = h3 := by rw [hopt, BitVec.ofNat_toNat, BitVec.setWidth_eq]
  simp only [frameOf, buildFrame, headerBytes, hlen, hoptByte]
  rfl

/-- The length bytes of R70, as TXF computes them. -/
theorem frameOf_eq_frameBytes {p : Packet} (h : InRange p) :
    frameOf p = frameBytes (BitVec.ofNat 8 (p.data.length / 256)) (BitVec.ofNat 8 p.data.length)
      (BitVec.ofNat 8 p.opt.length) p.ptype p.data p.opt (checksum (p.data ++ p.opt)) := by
  simp only [frameOf, buildFrame, headerBytes, bytes16_ofNat h.1]
  rfl

/-- The payload checksum is the frame's last byte (R70). -/
theorem readAt_frameOf_last (p : Packet) :
    readAt (frameOf p) (6 + (p.data ++ p.opt).length) = checksum (p.data ++ p.opt) := by
  have hsplit : frameOf p = ((frameOf p).take 6 ++ (p.data ++ p.opt)) ++ [checksum (p.data ++ p.opt)] := by
    rw [List.append_assoc, ← drop_frameOf, List.take_append_drop]
  have hlast : 6 + (p.data ++ p.opt).length = ((frameOf p).take 6 ++ (p.data ++ p.opt)).length := by
    rw [List.length_append (as := (frameOf p).take 6)]; rfl
  rw [hsplit, hlast, readAt_concat_length]

/-! ### From a packet to its frame and back -/

/-- R124: the frame of a packet in range is valid. -/
theorem validFrame_frameOf {p : Packet} (h : InRange p) : ValidFrame (frameOf p) := by
  have htotal : frameTotal (frameOf p) = 6 + (p.data ++ p.opt).length + 1 := by
    rw [frameTotal_frameOf h, List.length_append]; omega
  have hpayload : payloadOf (frameOf p) (frameTotal (frameOf p)) = p.data ++ p.opt := by
    rw [payloadOf, slice, htotal, Config.dataOff_eq, drop_frameOf, Nat.add_sub_cancel, Nat.add_sub_cancel_left]
    exact List.take_left
  refine ⟨?minLength, rfl, rfl, (length_frameOf p).trans (frameTotal_frameOf h).symm, ?payload⟩
  case minLength => rw [length_frameOf, Config.minFrame_eq]; omega
  case payload => rw [PayloadOk, hpayload, htotal, Nat.add_sub_cancel, readAt_frameOf_last]

/-- The packet DECODE returns, by the frame's fields (R125). -/
theorem decodePacket_fst (f : List Byte) (w : WorkRegs) :
    (decodePacket f w).1 =
      { ptype := ptypeField f, data := slice f 6 (6 + (lenField f).toNat),
        opt := slice f (6 + (lenField f).toNat) (6 + (lenField f).toNat + (optField f).toNat) } := rfl

/-- R127: DECODE undoes the encoding of a packet in range. -/
theorem decodePacket_frameOf {p : Packet} (h : InRange p) (w : WorkRegs) : (decodePacket (frameOf p) w).1 = p := by
  have hdata : slice (frameOf p) 6 (6 + p.data.length) = p.data := by
    rw [slice, drop_frameOf, Nat.add_sub_cancel_left, List.append_assoc, List.take_left]
  have hopt : slice (frameOf p) (6 + p.data.length) (6 + p.data.length + p.opt.length) = p.opt := by
    rw [slice, ← List.drop_drop, drop_frameOf, Nat.add_sub_cancel_left, List.append_assoc, List.drop_left,
      List.take_left]
  rw [decodePacket_fst, lenField_frameOf_toNat h, optField_frameOf_toNat h, hdata, hopt, ptypeField_frameOf]

/-- The header of any sequence that has one is its fields (R70, R71). -/
theorem headerOf_eq_headerBytes {f : List Byte} (h : 5 ≤ f.length) :
    headerOf f = headerBytes (lenField f) (optField f) (ptypeField f) := by
  rw [headerOf, headerBytes, lenField, bytes16_be16, Config.hckOff_eq, slice_succ (by omega) (by omega),
    slice_succ (by omega) (by omega), slice_succ (by omega) (by omega), slice_one (by omega)]
  rfl

/-- A valid frame is as long as its header declares (R73). -/
theorem ValidFrame.length_eq_frameTotal {f : List Byte} (h : ValidFrame f) : f.length = frameTotal f := by
  obtain ⟨-, -, -, hlength, -⟩ := h
  exact hlength

theorem ValidFrame.length_eq {f : List Byte} (h : ValidFrame f) :
    f.length = 7 + (lenField f).toNat + (optField f).toNat :=
  h.length_eq_frameTotal.trans (frameTotal_eq_fields f)

/-- So DECODE cuts out data and optional data of exactly those lengths (R125). -/
theorem decodePacket_lengths {f : List Byte} (h : ValidFrame f) (w : WorkRegs) :
    (decodePacket f w).1.data.length = (lenField f).toNat ∧ (decodePacket f w).1.opt.length = (optField f).toNat := by
  have hlength := h.length_eq
  rw [decodePacket_fst]
  exact ⟨by rw [slice_length]; omega, by rw [slice_length]; omega⟩

/-- The packet of a valid frame can be encoded: its lengths come from the header's fields. -/
theorem inRange_decodePacket {f : List Byte} (h : ValidFrame f) (w : WorkRegs) : InRange (decodePacket f w).1 := by
  obtain ⟨hdata, hopt⟩ := decodePacket_lengths h w
  rw [InRange, hdata, hopt]
  exact ⟨Nat.le_of_lt_succ (lenField f).isLt, Nat.le_of_lt_succ (optField f).isLt⟩

/-- A frame is its sync byte, its header, its payload, and behind each of the two its checksum (R70). -/
theorem buildFrame_eq (len : Len) (opt : Opt) (ptype : PType) (data optData : List Byte) :
    buildFrame len opt ptype data optData =
      [Config.sync] ++ headerBytes len opt ptype ++ [checksum (headerBytes len opt ptype)] ++ (data ++ optData) ++
        [checksum (data ++ optData)] := by
  simp [buildFrame]

/-- The same parts of a valid frame, cut out of it (R70 to R73). -/
theorem ValidFrame.eq_parts {f : List Byte} (h : ValidFrame f) :
    f = [Config.sync] ++ headerOf f ++ [checksum (headerOf f)] ++ payloadOf f (frameTotal f) ++
        [checksum (payloadOf f (frameTotal f))] := by
  obtain ⟨hmin, hsync, hheader, hlength, hpayload⟩ := h
  rw [Config.minFrame_eq] at hmin
  calc f = slice f 0 f.length := by rw [slice_zero, List.take_length]
    _ = slice f 0 1 ++ slice f 1 5 ++ slice f 5 6 ++ slice f 6 (f.length - 1) ++
          slice f (f.length - 1) (f.length - 1 + 1) := by
      rw [slice_append_slice_of_le f (by omega) (by omega), slice_append_slice_of_le f (by omega) (by omega),
        slice_append_slice_of_le f (by omega) (by omega), slice_append_slice_of_le f (by omega) (by omega),
        Nat.sub_add_cancel (by omega)]
    _ = _ := by
      rw [slice_one (by omega), slice_one (by omega), slice_one (by omega), hsync, hheader, hpayload, ← hlength]
      rfl

/-- R128: encoding the packet that DECODE returns gives the valid frame back. -/
theorem frameOf_decodePacket {f : List Byte} (h : ValidFrame f) (w : WorkRegs) : frameOf (decodePacket f w).1 = f := by
  obtain ⟨hdata, hopt⟩ := decodePacket_lengths h w
  have hlength := h.length_eq
  have hheader := headerOf_eq_headerBytes (f := f) (by omega)
  have hpayload : payloadOf f (frameTotal f) = (decodePacket f w).1.data ++ (decodePacket f w).1.opt := by
    rw [decodePacket_fst, slice_append_slice_of_le f (by omega) (by omega), payloadOf, frameTotal_eq_fields,
      Config.dataOff_eq]
    congr 1; omega
  rw [frameOf, hdata, hopt, BitVec.ofNat_toNat, BitVec.ofNat_toNat, BitVec.setWidth_eq, BitVec.setWidth_eq,
    buildFrame_eq, ← hpayload]
  exact (hheader ▸ h.eq_parts).symm

end Sys2Proof.Machine
end

section
/-! What TXF, DECODE and the reassembler make of the frame of a packet (41_frame_codec.md R122 to R129). -/

namespace Sys2Proof.Machine

/-! ### TXF and DECODE -/

/-- R123: each flag of ERR_ENCODE is its own bit, so the flags add up. -/
theorem encodeFlags_eq_add (d o : Nat) :
    encodeFlags d o = (if 65535 < d then 0x01 else 0x00) + (if 255 < o then 0x02 else 0x00) := by
  simp only [encodeFlags, dataTooLong, optTooLong, Config.maxData_eq, Config.maxOpt_eq, decide_eq_true_eq]
  split <;> split <;> rfl

/-- TXF of a packet in range puts its frame on TXD (R122). -/
theorem exec_txf_txdTrace {p : Packet} (h : InRange p) (s : State) :
    ∃ u, exec (.txf p.ptype p.data p.opt) s = .next u ∧ txdTrace u = txdTrace s ++ [frameOf p] := by
  obtain ⟨u, hexec, -, hout, -⟩ := completesWith_txf_of_inRange (t := p.ptype) s h
  exact ⟨u, hexec, by simp [txdTrace, hout]⟩

/-- DECODE outside its precondition (R126; log entry 11). -/
theorem exec_decode_of_not_valid {f : List Byte} {s : State} (h : ¬ ValidFrame f) :
    exec (.decode f) s = .refused .notAValidFrame := if_neg h

/-- DECODE of the frame of a packet in range: the header's fields, and that packet (R125). -/
theorem exec_decode_frameOf {p : Packet} (h : InRange p) (s : State) :
    exec (.decode (frameOf p)) s = .next { s with wr := decodeRegs (frameOf p) s.wr, ret := .packet p } := by
  rw [exec_decode_of_valid (validFrame_frameOf h), decodePacket_frameOf h]

/-! ### The PKT event (R83) -/

theorem eventBytes_pkt {p : Packet} (h : InRange p) : eventBytes (.pkt p) = pktBytes p.ptype p.data p.opt := by
  rw [eventBytes, bytes16_ofNat h.1]
  rfl

/-- A PKT event of a packet in range determines the packet: its length fields say where the data ends. -/
theorem eventBytes_pkt_inj {p q : Packet} (hp : InRange p) (hq : InRange q)
    (h : eventBytes (.pkt p) = eventBytes (.pkt q)) : p = q := by
  rw [eventBytes_pkt hp, eventBytes_pkt hq, pktBytes, pktBytes, List.append_assoc, List.append_assoc] at h
  obtain ⟨hfields, hbody⟩ := List.append_inj h rfl
  obtain ⟨-, hptype, hhi, hlo, -⟩ : _ ∧ _ ∧ _ ∧ _ ∧ _ := by simpa only [List.cons.injEq] using hfields
  have hlength : p.data.length = q.data.length := by
    have hpdata : p.data.length ≤ 65535 := hp.1
    have hqdata : q.data.length ≤ 65535 := hq.1
    have hhi := congrArg BitVec.toNat hhi
    have hlo := congrArg BitVec.toNat hlo
    simp only [BitVec.toNat_ofNat] at hhi hlo
    omega
  obtain ⟨hdata, hopt⟩ := List.append_inj hbody hlength
  cases p; cases q
  exact (Packet.mk.injEq ..).mpr ⟨hptype, hdata, hopt⟩

/-! ### A frame received byte by byte -/

/-- Every proper prefix of a valid frame is an RB at rest: it waits for the rest of the header, then of the frame. -/
theorem ValidFrame.atRest_of_prefix {pre rest : List Byte} (h : ValidFrame (pre ++ rest)) (hrest : rest ≠ []) :
    AtRest pre := by
  obtain ⟨-, hsync, hheader, hlength, -⟩ := h
  have hpos := List.length_pos_iff.2 hrest
  rw [List.length_append] at hlength
  by_cases hnil : pre = []
  case pos => exact .inl hnil
  have hpre := List.length_pos_iff.2 hnil
  rw [readAt_append_left rest hpre] at hsync
  refine .inr ⟨hpre, hsync, ?_⟩
  by_cases hshort : pre.length < 7
  case pos => exact .inl hshort
  have hlong := not_lt.1 hshort
  rw [headerOk_append rest hlong] at hheader
  rw [frameTotal_append rest hlong] at hlength
  exact .inr ⟨hheader, by omega⟩

/-- A valid frame alone in RB is selected for delivery (R142). -/
theorem selected_of_validFrame {s : State} (h : ValidFrame s.rb) : selected s = .deliver := by
  obtain ⟨hmin, hsync, hheader, hlength, hpayload⟩ := h
  rw [selected_eq, if_neg (fun hne => hne.2 hsync), if_neg (not_lt.2 hmin), if_neg (not_not.2 hheader),
    if_neg (not_lt.2 hlength.ge), if_pos hpayload]

/-- The loop delivers a valid frame's packet and leaves RB empty (R147). -/
theorem rxLoop_of_validFrame {s : State} (h : ValidFrame s.rb) :
    (rxLoop s).rb = [] ∧ (rxLoop s).out = s.out ++ [.evt (eventBytes (.pkt (decodePacket s.rb s.wr).1))] := by
  have hlength := h.length_eq_frameTotal
  obtain ⟨hrb, hout, -⟩ := rxTurn_spec s
  rw [selected_of_validFrame h] at hrb hout
  have hempty : (rxTurn s).rb = [] := by rw [hrb, turnDrop, ← hlength, List.drop_length]
  have hpacket : frontPacket s.rb = (decodePacket s.rb s.wr).1 := by
    rw [frontPacket, ← hlength, List.take_length]
    rfl
  rw [rxLoop_eq, selected_of_validFrame h]
  obtain ⟨hrest, hsame⟩ := rxLoop_of_rest (s := rxTurn s) (.inl hempty)
  refine ⟨hrest.trans hempty, hsame.trans (hout.trans ?_)⟩
  rw [turnEvents, hpacket]
  rfl

/-- RXB of a byte that leaves RB at rest only appends it (R151). -/
theorem exec_rxb_of_rest {b : Byte} {s : State} (h : AtRest (s.rb ++ [b])) :
    ∃ t, exec (.rxb b) s = .next t ∧ t.rb = s.rb ++ [b] ∧ evtTrace t = evtTrace s := by
  have hroom : s.rb.length < Config.bufCap := by
    have hlt := h.length_lt
    rw [List.length_append] at hlt
    exact Nat.lt_of_succ_lt hlt
  obtain ⟨hrb, hout⟩ := rxLoop_of_rest (s := bufAppend b s) h
  refine ⟨_, exec_rxb_of_room hroom, hrb, ?_⟩
  rw [evtTrace_respond, evtTrace, hout]
  rfl

/-- RXB of a valid frame's last byte delivers its packet (R151, R147). -/
theorem exec_rxb_of_validFrame {b : Byte} {s : State} (h : ValidFrame (s.rb ++ [b])) :
    ∃ t, exec (.rxb b) s = .next t ∧ t.rb = [] ∧
      evtTrace t = evtTrace s ++ [eventBytes (.pkt (decodePacket (s.rb ++ [b]) s.wr).1)] := by
  have hroom : s.rb.length < Config.bufCap :=
    (h.atRest_of_prefix (List.cons_ne_nil b [])).length_lt
  obtain ⟨hrb, hout⟩ := rxLoop_of_validFrame (s := bufAppend b s) h
  refine ⟨_, exec_rxb_of_room hroom, hrb, ?_⟩
  rw [evtTrace_respond]
  exact evtTrace_of_events (evs := [_]) hout

/-- EOC with RB empty changes nothing and emits no event (R157). -/
theorem exec_eoc_of_empty {s : State} (h : s.rb = []) :
    ∃ t, exec .eoc s = .next t ∧ t.rb = [] ∧ evtTrace t = evtTrace s := by
  obtain ⟨hrb, hout⟩ := rxLoop_of_rest (s := s) (.inl h)
  have hvalve : rxValve (rxLoop s) = rxLoop s := if_neg (by simp [hrb, h])
  refine ⟨_, exec_eoc s, ?_, ?_⟩
  · rw [hvalve]; exact hrb.trans h
  · rw [evtTrace_respond, evtTrace_release, hvalve, evtTrace, hout]
    rfl

/-- FEED of what is missing of a valid frame delivers its packet, whatever the frame's size: no EOC stands inside the
chunk, so the valve meets an empty RB (R129). By induction on the missing bytes. -/
theorem exec_feed_of_validFrame {chunk : List Byte} {s : State} (hne : chunk ≠ []) (h : ValidFrame (s.rb ++ chunk)) :
    ∃ t, exec (.feed chunk) s = .next t ∧ t.rb = [] ∧
      evtTrace t = evtTrace s ++ [eventBytes (.pkt (decodePacket (s.rb ++ chunk) s.wr).1)] := by
  induction chunk generalizing s with
  | nil => exact absurd rfl hne
  | cons b chunk ih =>
    cases chunk with
    | nil =>
      obtain ⟨u, hrxb, hurb, huevt⟩ := exec_rxb_of_validFrame h
      obtain ⟨t, heoc, htrb, htevt⟩ := exec_eoc_of_empty hurb
      exact ⟨t, (exec_feed_cons hrxb).trans heoc, htrb, htevt.trans huevt⟩
    | cons b' chunk =>
      have hsplit : s.rb ++ b :: b' :: chunk = (s.rb ++ [b]) ++ b' :: chunk := List.append_cons ..
      rw [hsplit] at h ⊢
      obtain ⟨u, hrxb, hurb, huevt⟩ := exec_rxb_of_rest (h.atRest_of_prefix (List.cons_ne_nil _ _))
      rw [← hurb] at h ⊢
      obtain ⟨t, hfeed, htrb, htevt⟩ := ih (List.cons_ne_nil _ _) h
      exact ⟨t, (exec_feed_cons hrxb).trans hfeed, htrb, huevt ▸ htevt⟩

end Sys2Proof.Machine
end

section
/-! The statements of 41_frame_codec.md: the TX framer, the frame decoder, and that each undoes the other. -/

namespace Sys2Proof.Proofs
open Sys2Proof.Machine

/-- Settles O30: the frame is valid, so its bytes wait in RB up to the last one, which delivers the packet. -/
theorem loopbackDeliversTheTransmittedPacket : Obligations.LoopbackDeliversTheTransmittedPacket := by
  unfold Obligations.LoopbackDeliversTheTransmittedPacket
  intro t data opt s hempty hdata hopt
  let p : Packet := { ptype := t, data := data, opt := opt }
  have hrange : InRange p := ⟨hdata, hopt⟩
  obtain ⟨u, htxf, htxd⟩ := exec_txf_txdTrace hrange s
  have hurb : u.rb = [] := (exec_txf_rb htxf).trans hempty
  have hframe : u.rb ++ frameOf p = frameOf p := by rw [hurb, List.nil_append]
  have hne : frameOf p ≠ [] := List.cons_ne_nil _ _
  obtain ⟨v, hfeed, hvrb, hvevt⟩ := exec_feed_of_validFrame hne (hframe.symm ▸ validFrame_frameOf hrange)
  refine ⟨frameOf p, u, v, htxf, htxd, hfeed, hvrb, ?_⟩
  rw [hvevt, exec_txf_evtTrace htxf, hframe, decodePacket_frameOf hrange, eventBytes_pkt hrange]

/-- Settles O24. -/
theorem txfEmitsOneFrameOrReportsBothFlags : Obligations.TxfEmitsOneFrameOrReportsBothFlags := by
  unfold Obligations.TxfEmitsOneFrameOrReportsBothFlags
  intro t data opt s
  constructor
  case left =>
    intro hrange
    rw [← frameOf_eq_frameBytes (p := { ptype := t, data := data, opt := opt }) hrange]
    exact completesWith_txf_of_inRange s hrange
  case right =>
    intro htooLong
    rw [← encodeFlags_eq_add]
    exact exec_txf_of_tooLong fun hrange => htooLong.elim (not_lt.2 hrange.1) (not_lt.2 hrange.2)

/-- Settles O25. -/
theorem transmittedFramesAreValid : Obligations.TransmittedFramesAreValid := by
  unfold Obligations.TransmittedFramesAreValid
  intro t data opt s hdata hopt
  let p : Packet := { ptype := t, data := data, opt := opt }
  have hrange : InRange p := ⟨hdata, hopt⟩
  obtain ⟨u, htxf, htxd⟩ := exec_txf_txdTrace hrange s
  exact ⟨frameOf p, u, htxf, htxd, validFrame_frameOf hrange, length_frameOf p⟩

/-- Settles O26: the four header bytes hold the packet's own lengths, so the frame is the one of that packet. -/
theorem decodeReturnsThePacketOfAFrame : Obligations.DecodeReturnsThePacketOfAFrame := by
  unfold Obligations.DecodeReturnsThePacketOfAFrame
  intro h1 h2 h3 h4 data opt s hdata hopt
  have hrange : InRange { ptype := h4, data := data, opt := opt } := by
    have hh1 := h1.isLt; have hh2 := h2.isLt; have hh3 := h3.isLt
    simp only [InRange, Config.maxData_eq, Config.maxOpt_eq]
    omega
  have hframe := frameBytes_eq_frameOf h4 hdata hopt
  rw [hframe, exec_decode_frameOf hrange, ← hframe]
  rfl

/-- Settles O28. -/
theorem decodingATransmittedFrameGivesThePacket : Obligations.DecodingATransmittedFrameGivesThePacket := by
  unfold Obligations.DecodingATransmittedFrameGivesThePacket
  intro p s hdata hopt
  have hrange : InRange p := ⟨hdata, hopt⟩
  obtain ⟨u, htxf, htxd⟩ := exec_txf_txdTrace hrange s
  exact ⟨frameOf p, u, _, htxf, htxd, exec_decode_frameOf hrange u, rfl,
    (exec_txf_rb htxf : u.rb = s.rb), rfl⟩

/-- Settles O29. A PKT event determines its packet, and the packet its frame. -/
theorem encodingADecodedFrameGivesTheFrame : Obligations.EncodingADecodedFrameGivesTheFrame := by
  unfold Obligations.EncodingADecodedFrameGivesTheFrame
  constructor
  case left =>
    intro f s hf
    obtain ⟨v, htxf, htxd⟩ := exec_txf_txdTrace (inRange_decodePacket hf s.wr)
      { s with wr := decodeRegs f s.wr, ret := .packet (decodePacket f s.wr).1 }
    rw [frameOf_decodePacket hf] at htxd
    exact ⟨_, _, v, exec_decode_of_valid hf, rfl, htxf, htxd⟩
  case right =>
    intro f g p q s u v hf hg hdecodeF hdecodeG hp hq hevent
    obtain rfl := Host.Outcome.next.inj ((exec_decode_of_valid hf).symm.trans hdecodeF)
    obtain rfl := Host.Outcome.next.inj ((exec_decode_of_valid hg).symm.trans hdecodeG)
    obtain rfl := Ret.packet.inj hp
    obtain rfl := Ret.packet.inj hq
    have hpackets := eventBytes_pkt_inj (inRange_decodePacket hf s.wr) (inRange_decodePacket hg s.wr) hevent
    rw [← frameOf_decodePacket hf s.wr, ← frameOf_decodePacket hg s.wr, hpackets]

/-- Settles O27. -/
theorem decodeRefusesInvalidFrames : Obligations.DecodeRefusesInvalidFrames := by
  unfold Obligations.DecodeRefusesInvalidFrames
  intro f s hf
  exact exec_decode_of_not_valid hf

end Sys2Proof.Proofs
end

section
/-! RX_SELECT's choice, condition by condition, and what a turn of the loop leaves behind when it runs on its own
(42_stream_decoder.md R142 to R149). -/

namespace Sys2Proof.Machine

/-! ### The action that each condition selects (R142) -/

/-- RB holds enough to read a header from: the sync byte in front, and `MIN_FRAME` bytes (R142, from step 3 on). -/
abbrev Framed (rb : Buffer) : Prop := rb.head? = some Config.sync ∧ 7 ≤ rb.length

/-- RX_SELECT's decision with the sync byte read as RB's head. -/
theorem rxSelect_action_head? (rb : Buffer) (w : WorkRegs) :
    (rxSelect rb w).1 =
      if rb ≠ [] ∧ rb.head? ≠ some Config.sync then .discard
      else if rb.length < 7 then .waitHeader
      else if ¬ HeaderOk rb then .hdrSlip
      else if rb.length < frameTotal rb then .waitPayload
      else if PayloadOk rb (frameTotal rb) then .deliver
      else .dropFrame := by
  rw [rxSelect_action]
  cases rb with
  | nil => rfl
  | cons b rb =>
    simp only [List.head?_cons, ne_eq, Option.some.injEq, reduceCtorEq, not_false_eq_true, true_and,
      List.length_cons, Nat.le_add_left, readAt_cons_zero, Config.minFrame_eq]

/-- Step 1: something is held and it is not opened by the sync byte. -/
theorem rxSelect_discard {rb : Buffer} (w : WorkRegs) (hne : rb ≠ []) (hsync : rb.head? ≠ some Config.sync) :
    (rxSelect rb w).1 = .discard := by
  rw [rxSelect_action_head?, if_pos ⟨hne, hsync⟩]

/-- Step 2: too few bytes for a header. -/
theorem rxSelect_waitHeader {rb : Buffer} (w : WorkRegs)
    (h : rb = [] ∨ (rb.head? = some Config.sync ∧ rb.length < 7)) : (rxSelect rb w).1 = .waitHeader := by
  obtain rfl | ⟨hsync, hlen⟩ := h
  · rfl
  · rw [rxSelect_action_head?, if_neg (fun h => h.2 hsync), if_pos hlen]

/-- From step 3 on RX_SELECT reads the header. -/
theorem rxSelect_of_framed {rb : Buffer} (w : WorkRegs) (h : Framed rb) :
    rxSelect rb w =
      if ¬ HeaderOk rb then (.hdrSlip, headerRegs rb w)
      else if rb.length < frameTotal rb then (.waitPayload, totalRegs rb w)
      else if PayloadOk rb (frameTotal rb) then (.deliver, payloadRegs rb w)
      else (.dropFrame, payloadRegs rb w) := by
  obtain ⟨hsync, hlen⟩ := h
  obtain ⟨-, hread⟩ := (head?_eq_some_iff_readAt rb Config.sync).1 hsync
  rw [← Config.minFrame_eq] at hlen
  rw [rxSelect_eq, if_neg (fun h => h.2 hread), if_neg (not_lt.2 hlen)]

theorem rxSelect_hdrSlip {rb : Buffer} (w : WorkRegs) (h : Framed rb) (hheader : ¬ HeaderOk rb) :
    (rxSelect rb w).1 = .hdrSlip := by
  rw [rxSelect_of_framed w h, if_pos hheader]

theorem rxSelect_waitPayload {rb : Buffer} (w : WorkRegs) (h : Framed rb) (hheader : HeaderOk rb)
    (hshort : rb.length < frameTotal rb) : (rxSelect rb w).1 = .waitPayload := by
  rw [rxSelect_of_framed w h, if_neg (not_not.2 hheader), if_pos hshort]

theorem rxSelect_deliver {rb : Buffer} (w : WorkRegs) (h : Framed rb) (hheader : HeaderOk rb)
    (hwhole : frameTotal rb ≤ rb.length) (hpayload : PayloadOk rb (frameTotal rb)) :
    (rxSelect rb w).1 = .deliver := by
  rw [rxSelect_of_framed w h, if_neg (not_not.2 hheader), if_neg (not_lt.2 hwhole), if_pos hpayload]

theorem rxSelect_dropFrame {rb : Buffer} (w : WorkRegs) (h : Framed rb) (hheader : HeaderOk rb)
    (hwhole : frameTotal rb ≤ rb.length) (hpayload : ¬ PayloadOk rb (frameTotal rb)) :
    (rxSelect rb w).1 = .dropFrame := by
  rw [rxSelect_of_framed w h, if_neg (not_not.2 hheader), if_neg (not_lt.2 hwhole), if_neg hpayload]

/-- The condition of each action, as R142 states it. -/
def ActionCondition (rb : Buffer) : RxAction → Prop
  | .discard => rb ≠ [] ∧ rb.head? ≠ some Config.sync
  | .waitHeader => rb = [] ∨ (rb.head? = some Config.sync ∧ rb.length < 7)
  | .hdrSlip => Framed rb ∧ ¬ HeaderOk rb
  | .waitPayload => Framed rb ∧ HeaderOk rb ∧ rb.length < frameTotal rb
  | .deliver => Framed rb ∧ HeaderOk rb ∧ frameTotal rb ≤ rb.length ∧ PayloadOk rb (frameTotal rb)
  | .dropFrame => Framed rb ∧ HeaderOk rb ∧ frameTotal rb ≤ rb.length ∧ ¬ PayloadOk rb (frameTotal rb)

/-- An action whose condition holds is the one selected: no two conditions hold together (R142). -/
theorem rxSelect_of_actionCondition {rb : Buffer} (w : WorkRegs) {a : RxAction} (h : ActionCondition rb a) :
    (rxSelect rb w).1 = a := by
  cases a with
  | discard => exact rxSelect_discard w h.1 h.2
  | waitHeader => exact rxSelect_waitHeader w h
  | hdrSlip => exact rxSelect_hdrSlip w h.1 h.2
  | waitPayload =>
    obtain ⟨hframed, hheader, hshort⟩ := h
    exact rxSelect_waitPayload w hframed hheader hshort
  | deliver =>
    obtain ⟨hframed, hheader, hwhole, hpayload⟩ := h
    exact rxSelect_deliver w hframed hheader hwhole hpayload
  | dropFrame =>
    obtain ⟨hframed, hheader, hwhole, hpayload⟩ := h
    exact rxSelect_dropFrame w hframed hheader hwhole hpayload

/-- Every RB meets the condition of some action (R191). -/
theorem exists_actionCondition (rb : Buffer) : ∃ a, ActionCondition rb a := by
  by_cases hnil : rb = []
  case pos => exact ⟨.waitHeader, .inl hnil⟩
  by_cases hsync : rb.head? = some Config.sync
  case neg => exact ⟨.discard, hnil, hsync⟩
  by_cases hlen : rb.length < 7
  case pos => exact ⟨.waitHeader, .inr ⟨hsync, hlen⟩⟩
  have hframed : Framed rb := ⟨hsync, not_lt.1 hlen⟩
  by_cases hheader : HeaderOk rb
  case neg => exact ⟨.hdrSlip, hframed, hheader⟩
  by_cases hshort : rb.length < frameTotal rb
  case pos => exact ⟨.waitPayload, hframed, hheader, hshort⟩
  by_cases hpayload : PayloadOk rb (frameTotal rb)
  case pos => exact ⟨.deliver, hframed, hheader, not_lt.1 hshort, hpayload⟩
  case neg => exact ⟨.dropFrame, hframed, hheader, not_lt.1 hshort, hpayload⟩

/-- RX_SELECT picks exactly the action whose condition holds (R142, R191). -/
theorem rxSelect_eq_iff (rb : Buffer) (w : WorkRegs) (a : RxAction) :
    (rxSelect rb w).1 = a ↔ ActionCondition rb a := by
  constructor
  case mpr => exact rxSelect_of_actionCondition w
  case mp =>
    rintro rfl
    obtain ⟨a, ha⟩ := exists_actionCondition rb
    rwa [rxSelect_of_actionCondition w ha]

/-! ### The registers that RX_SELECT leaves (R142) -/

theorem rxSelect_header_regs {rb : Buffer} (w : WorkRegs) (h : Framed rb) :
    (rxSelect rb w).2.len = lenField rb ∧ (rxSelect rb w).2.opt = optField rb ∧
      (rxSelect rb w).2.hck = checksum (headerOf rb) := by
  rw [rxSelect_of_framed w h]
  split_ifs <;> exact ⟨rfl, rfl, rfl⟩

theorem rxSelect_total {rb : Buffer} (w : WorkRegs) (h : Framed rb) (hheader : HeaderOk rb) :
    (rxSelect rb w).2.total.toNat = frameTotal rb := by
  rw [rxSelect_of_framed w h, if_neg (not_not.2 hheader)]
  split_ifs <;> rfl

theorem rxSelect_pck {rb : Buffer} (w : WorkRegs) (h : Framed rb) (hheader : HeaderOk rb)
    (hwhole : frameTotal rb ≤ rb.length) : (rxSelect rb w).2.pck = checksum (payloadOf rb (frameTotal rb)) := by
  rw [rxSelect_of_framed w h, if_neg (not_not.2 hheader), if_neg (not_lt.2 hwhole)]
  split_ifs <;> rfl

/-- The header of a framed RB, byte by byte (R70). -/
theorem headerOf_eq_reads {rb : Buffer} (h : 5 ≤ rb.length) :
    headerOf rb = [readAt rb 1, readAt rb 2, readAt rb 3, readAt rb 4] := by
  rw [headerOf_eq_headerBytes h, headerBytes, lenField, bytes16_be16]
  rfl

/-! ### An RX action run on its own (log entry 9) -/

/-- The RX instruction of an action. -/
def rxInstr : RxAction → Instr
  | .discard => .rxDiscard
  | .waitHeader => .rxWaitHeader
  | .hdrSlip => .rxHdrSlip
  | .waitPayload => .rxWaitPayload
  | .deliver => .rxDeliver
  | .dropFrame => .rxDropFrame

theorem exec_rxInstr (a : RxAction) (s : State) : exec (rxInstr a) s = runSelected a s := by
  cases a <;> rfl

/-- Where RX_SELECT picks it, an RX action takes its bytes from the front of RB and emits its events. -/
theorem completesWith_rxInstr {a : RxAction} {s : State} (h : selected s = a) :
    CompletesWith (rxInstr a) s (s.rb.drop (turnDrop s.rb a)) ((turnEvents s.rb a).map Output.evt) := by
  subst h
  obtain ⟨hrb, hout, hpending, hret⟩ := rxTurn_spec s
  exact ⟨_, (exec_rxInstr _ s).trans (if_pos rfl), hrb, hout, hpending, hret⟩

/-- Elsewhere it is refused. -/
theorem exec_rxInstr_of_not_selected {a : RxAction} {s : State} (h : selected s ≠ a) :
    exec (rxInstr a) s = .refused .actionNotSelected :=
  (exec_rxInstr a s).trans (if_neg h)

/-! ### The valve (R149) -/

/-- OVFL's count, byte by byte (R83; log entry 19). -/
theorem eventBytes_ovfl (n : Nat) : eventBytes (.ovfl n) = ovflBytes n := by
  have hbyte (k : Nat) (hk : k + 8 ≤ 32) : BitVec.ofNat 8 (n % 2 ^ 32 / 2 ^ k) = BitVec.ofNat 8 (n / 2 ^ k) := by
    apply BitVec.eq_of_getLsbD_eq
    intro i hi
    have hbit : i + k < 32 := by omega
    simp only [BitVec.getLsbD_ofNat, Nat.testBit_div_two_pow, Nat.testBit_mod_two_pow, hbit, decide_true, Bool.true_and]
  have hlow : BitVec.ofNat 8 (n % 2 ^ 32) = BitVec.ofNat 8 n := by simpa using hbyte 0 (by decide)
  rw [eventBytes, bytes32_eq, BitVec.toNat_ofNat, hbyte 24 (by decide), hbyte 16 (by decide), hbyte 8 (by decide), hlow]

/-- What the valve leaves of RB. -/
def valveRb (rb : Buffer) : Buffer := if Config.watermark < rb.length then [] else rb

/-- What the valve emits. -/
def valveEvents (rb : Buffer) : List (List Byte) :=
  if Config.watermark < rb.length then [ovflBytes rb.length] else []

theorem valveRb_of_le {rb : Buffer} (h : rb.length ≤ 100) : valveRb rb = rb := if_neg (not_lt.2 h)

theorem valveRb_of_lt {rb : Buffer} (h : 100 < rb.length) : valveRb rb = [] := if_pos h

theorem valveEvents_of_le {rb : Buffer} (h : rb.length ≤ 100) : valveEvents rb = [] := if_neg (not_lt.2 h)

theorem valveEvents_of_lt {rb : Buffer} (h : 100 < rb.length) : valveEvents rb = [ovflBytes rb.length] := if_pos h

theorem rxValve_rb (s : State) : (rxValve s).rb = valveRb s.rb := by
  obtain ⟨⟨hlen, hrb, -⟩ | ⟨hlen, hrb, -⟩, -⟩ := rxValve_spec s
  · rw [hrb, valveRb_of_lt hlen]
  · rw [hrb, valveRb_of_le hlen]

theorem rxValve_out (s : State) : (rxValve s).out = s.out ++ (valveEvents s.rb).map Output.evt := by
  obtain ⟨⟨hlen, -, hout⟩ | ⟨hlen, -, hout⟩, -⟩ := rxValve_spec s
  · rw [hout, valveEvents_of_lt hlen, eventBytes_ovfl]; rfl
  · rw [hout, valveEvents_of_le hlen]; exact (List.append_nil _).symm

@[simp] theorem rxValve_pending (s : State) : (rxValve s).pending = s.pending := by
  obtain ⟨-, hpending, -⟩ := rxValve_spec s
  exact hpending

@[simp] theorem rxValve_ret (s : State) : (rxValve s).ret = s.ret := by
  obtain ⟨-, -, hret⟩ := rxValve_spec s
  exact hret

/-- RX_VALVE run on its own, on any RB (log entry 10). -/
theorem completesWith_rxValve (s : State) :
    CompletesWith .rxValve s (valveRb s.rb) ((valveEvents s.rb).map Output.evt) :=
  ⟨_, exec_rxValve s, rxValve_rb s, rxValve_out s, rxValve_pending s, rxValve_ret s⟩

end Sys2Proof.Machine
end

section
/-! RX_LOOP as a function of RB: what it leaves of the bytes and which events it emits (42_stream_decoder.md R141,
R150), and that it can be run before more bytes arrive (R153). -/

namespace Sys2Proof.Machine

/-- The action RX_SELECT picks for `rb`. -/
def chosen (rb : Buffer) : RxAction := (rxSelect rb WorkRegs.reset).1

theorem selected_eq_chosen (s : State) : selected s = chosen s.rb := rxSelect_action_indep _ _ _

/-- RB after the loop. -/
def loopRb (rb : Buffer) : Buffer := (rxLoop { State.reset with rb := rb }).rb

/-- The events of the loop. -/
def loopEvents (rb : Buffer) : List (List Byte) := evtTrace (rxLoop { State.reset with rb := rb })

theorem isStop_chosen_iff (rb : Buffer) : isStop (chosen rb) = true ↔ AtRest rb :=
  isStop_selected_iff { State.reset with rb := rb }

theorem isStop_chosen_eq_false_iff (rb : Buffer) : isStop (chosen rb) = false ↔ ¬ AtRest rb := by
  rw [← isStop_chosen_iff, Bool.not_eq_true]

/-- Induction along the loop, on RB alone. -/
theorem loop_induction {P : Buffer → Prop} (rest : ∀ rb, AtRest rb → P rb)
    (turn : ∀ rb, ¬ AtRest rb → P (rb.drop (turnDrop rb (chosen rb))) → P rb) (rb : Buffer) : P rb := by
  refine rxLoop_induction (P := fun s => P s.rb) (fun s hstop => rest _ ((isStop_selected_iff s).1 hstop)) ?turn
    { State.reset with rb := rb }
  case turn =>
    intro s hturn ih
    rw [selected_eq_chosen, isStop_chosen_eq_false_iff] at hturn
    rw [(rxTurn_spec s).1, selected_eq_chosen] at ih
    exact turn s.rb hturn ih

/-- Where RB is not at rest the loop is one turn and then the loop (R141). -/
theorem rxLoop_of_not_rest {s : State} (h : ¬ AtRest s.rb) : rxLoop s = rxLoop (rxTurn s) := by
  rw [rxLoop_eq, if_neg (mt (isStop_selected_iff s).1 h)]

/-- What the loop makes of RB, and the events it adds, depend on RB alone. -/
theorem rxLoop_eq_of_rb_eq {s t : State} (h : s.rb = t.rb) :
    ∃ evs : List (List Byte), (rxLoop s).rb = (rxLoop t).rb ∧ (rxLoop s).out = s.out ++ evs.map Output.evt ∧
      (rxLoop t).out = t.out ++ evs.map Output.evt := by
  induction s using rxLoop_induction generalizing t with
  | stop s hs =>
    have hrest := (isStop_selected_iff s).1 hs
    obtain ⟨hrb, hout⟩ := rxLoop_of_rest hrest
    obtain ⟨hrb', hout'⟩ := rxLoop_of_rest (h ▸ hrest)
    exact ⟨[], by rw [hrb, hrb', h], by simpa using hout, by simpa using hout'⟩
  | turn s hs ih =>
    have hsel := selected_congr h
    obtain ⟨hrb, hout, -⟩ := rxTurn_spec s
    obtain ⟨hrb', hout', -⟩ := rxTurn_spec t
    rw [← hsel, ← h] at hrb' hout'
    obtain ⟨evs, hloop, hs', ht'⟩ := ih (hrb.trans hrb'.symm)
    have hrest : ¬ AtRest s.rb := mt (isStop_selected_iff s).2 (Bool.eq_false_iff.1 hs)
    rw [rxLoop_of_not_rest hrest, rxLoop_of_not_rest (s := t) (h ▸ hrest)]
    exact ⟨turnEvents s.rb (selected s) ++ evs, hloop, by rw [hs', hout]; simp, by rw [ht', hout']; simp⟩

theorem rxLoop_rb (s : State) : (rxLoop s).rb = loopRb s.rb := by
  obtain ⟨-, hrb, -⟩ := rxLoop_eq_of_rb_eq (s := s) (t := { State.reset with rb := s.rb }) rfl
  exact hrb

theorem rxLoop_out (s : State) : (rxLoop s).out = s.out ++ (loopEvents s.rb).map Output.evt := by
  obtain ⟨evs, -, hout, hreset⟩ := rxLoop_eq_of_rb_eq (s := s) (t := { State.reset with rb := s.rb }) rfl
  have hevs : loopEvents s.rb = evs := evtTrace_of_events hreset
  rw [hout, hevs]

/-- The loop leaves RB at rest (R154 (a)). -/
theorem atRest_loopRb (rb : Buffer) : AtRest (loopRb rb) := rxLoop_atRest _

/-- At rest the loop stops at once (R152). -/
theorem loopRb_of_rest {rb : Buffer} (h : AtRest rb) : loopRb rb = rb :=
  (rxLoop_of_rest (s := { State.reset with rb := rb }) h).1

theorem loopEvents_of_rest {rb : Buffer} (h : AtRest rb) : loopEvents rb = [] :=
  congrArg (List.filterMap evtOf) (rxLoop_of_rest (s := { State.reset with rb := rb }) h).2

theorem loopRb_of_not_rest {rb : Buffer} (h : ¬ AtRest rb) :
    loopRb rb = loopRb (rb.drop (turnDrop rb (chosen rb))) := by
  rw [loopRb, rxLoop_of_not_rest h, rxLoop_rb, (rxTurn_spec _).1]
  rfl

theorem loopEvents_of_not_rest {rb : Buffer} (h : ¬ AtRest rb) :
    loopEvents rb = turnEvents rb (chosen rb) ++ loopEvents (rb.drop (turnDrop rb (chosen rb))) := by
  obtain ⟨hrb, hout, -⟩ := rxTurn_spec { State.reset with rb := rb }
  rw [loopEvents, rxLoop_of_not_rest h, evtTrace_of_events (rxLoop_out _), evtTrace_of_events hout, hrb]
  rfl

/-- A turn that is no stop takes no byte of those behind RB. -/
theorem turnDrop_chosen_le {rb : Buffer} (h : ¬ AtRest rb) : turnDrop rb (chosen rb) ≤ rb.length :=
  (turnDrop_of_not_stop (s := { State.reset with rb := rb }) ((isStop_chosen_eq_false_iff rb).2 h)).2

/-- The law behind R153: the loop over RB and more bytes is the loop over RB, then over what it left and those
bytes. -/
theorem loop_append (rb c : Buffer) :
    loopRb (rb ++ c) = loopRb (loopRb rb ++ c) ∧
    loopEvents (rb ++ c) = loopEvents rb ++ loopEvents (loopRb rb ++ c) := by
  induction rb using loop_induction with
  | rest rb h => rw [loopRb_of_rest h, loopEvents_of_rest h]; exact ⟨rfl, rfl⟩
  | turn rb h ih =>
    obtain ⟨ihrb, ihevents⟩ := ih
    have hturn := (isStop_chosen_eq_false_iff rb).2 h
    obtain ⟨hchosen, hdrop, hevents⟩ := turn_append (s := { State.reset with rb := rb })
      (t := { State.reset with rb := rb ++ c }) c rfl hturn
    change chosen (rb ++ c) = chosen rb at hchosen
    change turnDrop (rb ++ c) (chosen rb) = turnDrop rb (chosen rb) at hdrop
    change turnEvents (rb ++ c) (chosen rb) = turnEvents rb (chosen rb) at hevents
    have hmore : ¬ AtRest (rb ++ c) := (isStop_chosen_eq_false_iff _).1 (hchosen ▸ hturn)
    rw [loopRb_of_not_rest hmore, loopEvents_of_not_rest hmore, hchosen, hdrop, hevents,
      List.drop_append_of_le_length (turnDrop_chosen_le h), ihrb, ihevents, loopRb_of_not_rest h,
      loopEvents_of_not_rest h, List.append_assoc]
    exact ⟨rfl, rfl⟩

end Sys2Proof.Machine
end

section
/-! Frames, noise and slips at the front of RB: what RX_SELECT makes of them, and the loop (42_stream_decoder.md R143 to
R148, R156). -/

namespace Sys2Proof.Machine

/-! ### The first bytes of RB -/

/-- A byte that is not the sync byte (R143). -/
theorem rxSelect_of_noise {b : Byte} (rest : Buffer) (w : WorkRegs) (h : b ≠ 0x55) :
    (rxSelect (b :: rest) w).1 = .discard :=
  rxSelect_discard w (List.cons_ne_nil _ _) fun hsync => h (Option.some.inj hsync)

/-- Six header bytes and at least one byte behind them make RB framed. -/
theorem framed_cons (h1 h2 h3 h4 hck : Byte) {rest : Buffer} (h : rest ≠ []) :
    Framed (0x55 :: h1 :: h2 :: h3 :: h4 :: hck :: rest) := by
  have hpos := List.length_pos_iff.2 h
  exact ⟨rfl, by simp only [List.length_cons]; omega⟩

theorem frameTotal_cons (h1 h2 h3 h4 hck : Byte) (rest : Buffer) :
    frameTotal (0x55 :: h1 :: h2 :: h3 :: h4 :: hck :: rest) = 7 + (h1.toNat * 256 + h2.toNat) + h3.toNat :=
  frameTotal_eq _

/-- A sync byte whose header does not check out (R145). -/
theorem rxSelect_of_slip {h1 h2 h3 h4 hck : Byte} {rest : Buffer} (w : WorkRegs) (hne : rest ≠ [])
    (h : checksum [h1, h2, h3, h4] ≠ hck) :
    (rxSelect (0x55 :: h1 :: h2 :: h3 :: h4 :: hck :: rest) w).1 = .hdrSlip :=
  rxSelect_hdrSlip w (framed_cons h1 h2 h3 h4 hck hne) h

/-! ### A whole frame at the front of RB (R70) -/

section
variable {h1 h2 h3 h4 ck : Byte} {data opt : List Byte}

/-- The header's length fields are the lengths of what follows. -/
abbrev LengthsOk (h1 h2 h3 : Byte) (data opt : List Byte) : Prop :=
  data.length = h1.toNat * 256 + h2.toNat ∧ opt.length = h3.toNat

theorem length_frameBytes (h1 h2 h3 h4 ck : Byte) (data opt : List Byte) :
    (frameBytes h1 h2 h3 h4 data opt ck).length = 7 + data.length + opt.length := by
  simp only [List.length_append, List.length_cons, List.length_nil]
  omega

theorem frameTotal_frameBytes (h : LengthsOk h1 h2 h3 data opt) (rest : Buffer) :
    frameTotal (frameBytes h1 h2 h3 h4 data opt ck ++ rest) = (frameBytes h1 h2 h3 h4 data opt ck).length := by
  obtain ⟨hdata, hopt⟩ := h
  rw [length_frameBytes, hdata, hopt]
  exact frameTotal_eq _

/-- A frame is there whole. -/
theorem frameTotal_frameBytes_le (h : LengthsOk h1 h2 h3 data opt) (rest : Buffer) :
    frameTotal (frameBytes h1 h2 h3 h4 data opt ck ++ rest) ≤
      (frameBytes h1 h2 h3 h4 data opt ck ++ rest).length := by
  rw [frameTotal_frameBytes h, List.length_append (bs := rest)]
  exact Nat.le_add_right _ _

theorem framed_frameBytes (rest : Buffer) : Framed (frameBytes h1 h2 h3 h4 data opt ck ++ rest) := by
  refine ⟨rfl, ?_⟩
  rw [List.length_append, length_frameBytes]
  omega

/-- The bytes between header and payload checksum are the data and the optional data. -/
theorem payloadOf_frameBytes (rest : Buffer) :
    payloadOf (frameBytes h1 h2 h3 h4 data opt ck ++ rest) (frameBytes h1 h2 h3 h4 data opt ck).length =
      data ++ opt := by
  have hdrop : (frameBytes h1 h2 h3 h4 data opt ck ++ rest).drop 6 = (data ++ opt) ++ ([ck] ++ rest) :=
    List.append_assoc (data ++ opt) [ck] rest
  have hcount : (frameBytes h1 h2 h3 h4 data opt ck).length - 1 - 6 = (data ++ opt).length := by
    rw [length_frameBytes, List.length_append]; omega
  rw [payloadOf, slice, Config.dataOff_eq, hdrop, hcount, List.take_left]

/-- The last byte of a frame is its payload checksum byte. -/
theorem readAt_frameBytes_last (rest : Buffer) :
    readAt (frameBytes h1 h2 h3 h4 data opt ck ++ rest) ((frameBytes h1 h2 h3 h4 data opt ck).length - 1) = ck := by
  rw [readAt_append_left rest (by rw [length_frameBytes]; omega), List.length_append (bs := [ck]),
    List.length_singleton, Nat.add_sub_cancel, readAt_concat_length]

theorem payloadOk_frameBytes_iff (rest : Buffer) :
    PayloadOk (frameBytes h1 h2 h3 h4 data opt ck ++ rest) (frameBytes h1 h2 h3 h4 data opt ck).length ↔
      checksum (data ++ opt) = ck := by
  rw [PayloadOk, payloadOf_frameBytes, readAt_frameBytes_last]

/-- The lengths a header can declare are lengths a packet can have. -/
theorem LengthsOk.inRange (h : LengthsOk h1 h2 h3 data opt) : InRange { ptype := h4, data := data, opt := opt } := by
  obtain ⟨hdata, hopt⟩ := h
  have hh1 := h1.isLt; have hh2 := h2.isLt; have hh3 := h3.isLt
  simp only [InRange, Config.maxData_eq, Config.maxOpt_eq]
  omega

/-- PKT of the packet in a frame, its length bytes those of the frame's header (R83, R147). -/
theorem eventBytes_pkt_of_header (h4 : Byte) (h : LengthsOk h1 h2 h3 data opt) :
    eventBytes (.pkt { ptype := h4, data := data, opt := opt }) = [0x10, h4, h1, h2, h3] ++ data ++ opt := by
  obtain ⟨hdata, hopt⟩ := h
  rw [eventBytes, bytes16_of_eq_be16 (hdata.trans (be16_toNat h1 h2).symm), hopt, BitVec.ofNat_toNat,
    BitVec.setWidth_eq]
  rfl

/-- The packet of a valid frame at the front of RB (R147). -/
theorem frontPacket_frameBytes (h : LengthsOk h1 h2 h3 data opt) (rest : Buffer) :
    frontPacket (frameBytes h1 h2 h3 h4 data opt (checksum (data ++ opt)) ++ rest) =
      { ptype := h4, data := data, opt := opt } := by
  rw [frontPacket, frameTotal_frameBytes h, List.take_left, frameBytes_eq_frameOf h4 h.1 h.2,
    decodePacket_frameOf h.inRange]

theorem validFrame_frameBytes (h4 : Byte) (h : LengthsOk h1 h2 h3 data opt) :
    ValidFrame (frameBytes h1 h2 h3 h4 data opt (checksum (data ++ opt))) := by
  rw [frameBytes_eq_frameOf h4 h.1 h.2]
  exact validFrame_frameOf h.inRange

/-- A frame whose two checksums match is delivered (R142, R147). -/
theorem rxSelect_of_frame (h : LengthsOk h1 h2 h3 data opt) (rest : Buffer) (w : WorkRegs) :
    (rxSelect (frameBytes h1 h2 h3 h4 data opt (checksum (data ++ opt)) ++ rest) w).1 = .deliver := by
  refine rxSelect_deliver w (framed_frameBytes rest) rfl (frameTotal_frameBytes_le h rest) ?_
  rw [frameTotal_frameBytes h]
  exact (payloadOk_frameBytes_iff rest).2 rfl

/-- One whose payload checksum does not match is dropped (R142, R148). -/
theorem rxSelect_of_badFrame (h : LengthsOk h1 h2 h3 data opt) (hck : ck ≠ checksum (data ++ opt)) (rest : Buffer)
    (w : WorkRegs) : (rxSelect (frameBytes h1 h2 h3 h4 data opt ck ++ rest) w).1 = .dropFrame := by
  refine rxSelect_dropFrame w (framed_frameBytes rest) rfl (frameTotal_frameBytes_le h rest) ?_
  rw [frameTotal_frameBytes h]
  exact fun hok => hck ((payloadOk_frameBytes_iff rest).1 hok).symm

/-- Either way its turn consumes exactly the frame. -/
theorem drop_frameTotal_frameBytes (h : LengthsOk h1 h2 h3 data opt) (rest : Buffer) :
    (frameBytes h1 h2 h3 h4 data opt ck ++ rest).drop (frameTotal (frameBytes h1 h2 h3 h4 data opt ck ++ rest)) =
      rest := by
  rw [frameTotal_frameBytes h, List.drop_left]

/-- What a delivering turn emits (R147, R83). -/
theorem turnEvents_deliver_frameBytes (h : LengthsOk h1 h2 h3 data opt) (rest : Buffer) :
    turnEvents (frameBytes h1 h2 h3 h4 data opt (checksum (data ++ opt)) ++ rest) .deliver =
      [[0x10, h4, h1, h2, h3] ++ data ++ opt] := by
  rw [turnEvents, frontPacket_frameBytes h, eventBytes_pkt_of_header h4 h]

/-- What a dropping turn emits (R148, R83). -/
theorem turnEvents_dropFrame_frameBytes (h : LengthsOk h1 h2 h3 data opt) (rest : Buffer) :
    turnEvents (frameBytes h1 h2 h3 h4 data opt ck ++ rest) .dropFrame =
      [[0x03, h4, h1, h2, h3, ck, checksum (data ++ opt)]] := by
  have hlen : bytes16 (lenField (frameBytes h1 h2 h3 h4 data opt ck ++ rest)) = [h1, h2] := bytes16_be16 h1 h2
  rw [turnEvents, frameTotal_frameBytes h, payloadOf_frameBytes, readAt_frameBytes_last, eventBytes, hlen]
  rfl

end

/-! ### The loop over them -/

/-- One turn of the loop, its action known. -/
theorem loop_of_chosen {rb : Buffer} {a : RxAction} (h : chosen rb = a) (ha : isStop a = false) :
    loopRb rb = loopRb (rb.drop (turnDrop rb a)) ∧
    loopEvents rb = turnEvents rb a ++ loopEvents (rb.drop (turnDrop rb a)) := by
  subst h
  have hturn := (isStop_chosen_eq_false_iff rb).1 ha
  exact ⟨loopRb_of_not_rest hturn, loopEvents_of_not_rest hturn⟩

/-- Nothing is left to do on an empty RB. -/
theorem loopRb_nil : loopRb [] = [] := loopRb_of_rest (.inl rfl)

theorem loopEvents_nil : loopEvents [] = [] := loopEvents_of_rest (.inl rfl)

/-- A frame whose checksums match is delivered, and the loop goes on behind it. -/
theorem loop_frame_append {h1 h2 h3 : Byte} (h4 : Byte) {data opt : List Byte} (h : LengthsOk h1 h2 h3 data opt)
    (rest : Buffer) :
    loopRb (frameBytes h1 h2 h3 h4 data opt (checksum (data ++ opt)) ++ rest) = loopRb rest ∧
    loopEvents (frameBytes h1 h2 h3 h4 data opt (checksum (data ++ opt)) ++ rest) =
      ([0x10, h4, h1, h2, h3] ++ data ++ opt) :: loopEvents rest := by
  have hloop := loop_of_chosen (rxSelect_of_frame (h4 := h4) h rest WorkRegs.reset) rfl
  rwa [turnDrop, drop_frameTotal_frameBytes h, turnEvents_deliver_frameBytes h] at hloop

/-- Such a frame alone. -/
theorem loop_frame {h1 h2 h3 : Byte} (h4 : Byte) {data opt : List Byte} (h : LengthsOk h1 h2 h3 data opt) :
    loopRb (frameBytes h1 h2 h3 h4 data opt (checksum (data ++ opt))) = [] ∧
    loopEvents (frameBytes h1 h2 h3 h4 data opt (checksum (data ++ opt))) =
      [[0x10, h4, h1, h2, h3] ++ data ++ opt] := by
  have hloop := loop_frame_append h4 h []
  rwa [List.append_nil (frameBytes ..), loopRb_nil, loopEvents_nil] at hloop

/-- Noise without a sync byte is discarded byte by byte, and the loop goes on behind it (R143). -/
theorem loop_noise_append {noise : List Byte} (h : 0x55 ∉ noise) (rest : Buffer) :
    loopRb (noise ++ rest) = loopRb rest ∧
    loopEvents (noise ++ rest) = noise.map (fun b => [0x01, b]) ++ loopEvents rest := by
  induction noise with
  | nil => exact ⟨rfl, rfl⟩
  | cons b noise ih =>
    obtain ⟨hb, hnoise⟩ := not_or.1 (mt List.mem_cons.2 h)
    obtain ⟨ihrb, ihevents⟩ := ih hnoise
    obtain ⟨hrb, hevents⟩ := loop_of_chosen (rxSelect_of_noise (noise ++ rest) WorkRegs.reset (Ne.symm hb)) rfl
    exact ⟨hrb.trans ihrb, hevents.trans (congrArg ([0x01, b] :: ·) ihevents)⟩

/-- A sync byte whose header does not check out is dropped, and the loop goes on at the byte behind it (R145). -/
theorem loop_slip {h1 h2 h3 h4 hck : Byte} {rest : Buffer} (hne : rest ≠ []) (h : checksum [h1, h2, h3, h4] ≠ hck) :
    loopRb (0x55 :: h1 :: h2 :: h3 :: h4 :: hck :: rest) = loopRb (h1 :: h2 :: h3 :: h4 :: hck :: rest) ∧
    loopEvents (0x55 :: h1 :: h2 :: h3 :: h4 :: hck :: rest) =
      [0x02, h1, h2, h3, h4, hck, checksum [h1, h2, h3, h4]] :: loopEvents (h1 :: h2 :: h3 :: h4 :: hck :: rest) :=
  loop_of_chosen (rxSelect_of_slip WorkRegs.reset hne h) rfl

end Sys2Proof.Machine
end

section
/-! RXB, EOC and FEED in terms of the loop and the valve: at rest after each, at most one frame report for each RXB, and
the chunk-level meaning of FEED (42_stream_decoder.md R151 to R158). -/

namespace Sys2Proof.Machine

/-! ### RB at rest after each command (R154) -/

theorem atRest_rxb {b : Byte} {s t : State} (h : exec (.rxb b) s = .next t) : AtRest t.rb := by
  obtain ⟨-, rfl⟩ := exec_rxb_next h
  exact rxLoop_atRest _

theorem atChunkBoundary_eoc {s t : State} (h : exec .eoc s = .next t) : AtChunkBoundary t.rb := by
  obtain rfl := Host.Outcome.next.inj ((exec_eoc s).symm.trans h)
  exact rxValve_keeps_rest (rxLoop_atRest s)

/-- FEED ends with its EOC, whatever it began with (R87). -/
theorem atChunkBoundary_feed {chunk : List Byte} {s t : State} (h : exec (.feed chunk) s = .next t) :
    AtChunkBoundary t.rb := by
  induction chunk generalizing s with
  | nil => exact atChunkBoundary_eoc h
  | cons b chunk ih =>
    obtain ⟨u, -, hrest⟩ := exec_feed_cons_next h
    exact ih hrest

/-- With no move to take a step changes nothing (R199; log entry 2). -/
theorem step_of_idle {s : State} (h : s.pending = []) : step s = .next s := by
  have hfetch : fetch s = none := by rw [fetch, h]
  rw [step, hfetch]

/-- Each row a transfer decodes to keeps RB at rest, and so does RST. -/
theorem atRest_exec_decodeMove {m : HostMove} {s t : State} (hs : AtRest s.rb)
    (h : exec (decodeMove m) s = .next t) : AtRest t.rb := by
  cases m with
  | rst =>
    obtain rfl := Host.Outcome.next.inj ((exec_rst s).symm.trans h)
    exact .inl rfl
  | transfer bytes =>
    dsimp only [decodeMove] at h
    obtain ⟨b, hdecode⟩ | hdecode | ⟨ty, data, opt, hdecode⟩ | ⟨input, hdecode⟩ | hdecode := decode_cases bytes
    all_goals rw [hdecode] at h
    · exact atRest_rxb h
    · exact (atChunkBoundary_eoc h).1
    · rw [exec_txf_rb h]; exact hs
    · rw [(completesWith_cks input s).rb_eq h]; exact hs
    · rw [(completesWith_reserved bytes s).rb_eq h]; exact hs

/-! ### The frame reports of one RXB (R151) -/

/-- The PKT and PAYBAD events among `evs`, by their codes (R83). -/
def frameReports (evs : List (List Byte)) : List (List Byte) :=
  evs.filter fun e => e.head? = some 0x10 ∨ e.head? = some 0x03

theorem frameReports_append (evs evs' : List (List Byte)) :
    frameReports (evs ++ evs') = frameReports evs ++ frameReports evs' := List.filter_append ..

/-- A turn that reports a frame consumes one, of at least 7 bytes. -/
theorem frameReports_turnEvents_le (rb : Buffer) (a : RxAction) :
    7 * (frameReports (turnEvents rb a)).length ≤ turnDrop rb a := by
  cases a with
  | discard => exact Nat.zero_le _
  | waitHeader => exact Nat.zero_le _
  | hdrSlip => exact Nat.zero_le _
  | waitPayload => exact Nat.zero_le _
  | deliver => exact frameTotal_ge rb
  | dropFrame => exact frameTotal_ge rb

/-- So the loop reports at most one frame for every 7 bytes of RB. -/
theorem frameReports_loopEvents_le (rb : Buffer) : 7 * (frameReports (loopEvents rb)).length ≤ rb.length := by
  induction rb using loop_induction with
  | rest rb h => rw [loopEvents_of_rest h]; exact Nat.zero_le _
  | turn rb h ih =>
    have hturn := frameReports_turnEvents_le rb (chosen rb)
    have hdrop := turnDrop_chosen_le h
    rw [List.length_drop] at ih
    rw [loopEvents_of_not_rest h, frameReports_append, List.length_append]
    omega

/-- Where RB opens with a valid header and its loop does not stop at once, the first turn consumes a frame. -/
theorem turnDrop_chosen_of_header {rb : Buffer} (hframed : Framed rb) (hheader : HeaderOk rb) (h : ¬ AtRest rb) :
    turnDrop rb (chosen rb) = frameTotal rb := by
  have hwhole : frameTotal rb ≤ rb.length :=
    not_lt.1 fun hshort => h ((atRest_iff_head? rb).2 (.inr ⟨hframed.1, .inr ⟨hheader, hshort⟩⟩))
  by_cases hpayload : PayloadOk rb (frameTotal rb)
  · rw [chosen, rxSelect_deliver _ hframed hheader hwhole hpayload, turnDrop]
  · rw [chosen, rxSelect_dropFrame _ hframed hheader hwhole hpayload, turnDrop]

/-- A turn emits at most one event. -/
theorem length_turnEvents_le (rb : Buffer) (a : RxAction) : (turnEvents rb a).length ≤ 1 := by
  cases a <;> simp [turnEvents]

/-- One byte behind an RB at rest completes at most one frame: short of a header RB has no room for a second one, and
past it the byte is the frame's last (R151). -/
theorem frameReports_append_byte_le {rb : Buffer} (h : AtRest rb) (b : Byte) :
    (frameReports (loopEvents (rb ++ [b]))).length ≤ 1 := by
  have hcount := frameReports_loopEvents_le (rb ++ [b])
  rw [List.length_append, List.length_singleton] at hcount
  by_cases hlen : rb.length < 7
  case pos => omega
  have hlong := not_lt.1 hlen
  obtain rfl | ⟨hsync, hshort | ⟨hheader, htotal⟩⟩ := (atRest_iff_head? rb).1 h
  · exact absurd (Nat.zero_lt_succ 6) hlen
  · exact absurd hshort hlen
  by_cases hrest : AtRest (rb ++ [b])
  case pos => rw [loopEvents_of_rest hrest]; exact Nat.zero_le _
  have hframed : Framed (rb ++ [b]) :=
    ⟨by rw [List.head?_append, hsync]; rfl, by rw [List.length_append]; exact Nat.le_add_right_of_le hlong⟩
  have hdrop := turnDrop_chosen_of_header hframed ((headerOk_append [b] hlong).2 hheader) hrest
  rw [frameTotal_append [b] hlong] at hdrop
  have hnil : (rb ++ [b]).drop (turnDrop (rb ++ [b]) (chosen (rb ++ [b]))) = [] := by
    rw [hdrop, List.drop_eq_nil_iff, List.length_append]
    exact htotal
  rw [loopEvents_of_not_rest hrest, hnil, loopEvents_nil, List.append_nil]
  exact (List.length_filter_le _ _).trans (length_turnEvents_le _ _)

/-! ### FEED as one chunk (R140, R153) -/

/-- RB after the loop and the valve. -/
def chunkRb (rb : Buffer) : Buffer := valveRb (loopRb rb)

/-- The events of the loop and of the valve. -/
def chunkEvents (rb : Buffer) : List (List Byte) := loopEvents rb ++ valveEvents (loopRb rb)

/-- `t` is what FEED of `chunk` makes of `s` by its chunk-level meaning: the chunk appended, the loop, the valve, and
n + 1 responses OK. -/
structure FedAs (chunk : List Byte) (s t : State) : Prop where
  exec_eq : exec (.feed chunk) s = .next t
  rb_eq : t.rb = chunkRb (s.rb ++ chunk)
  evt_eq : evtTrace t = evtTrace s ++ chunkEvents (s.rb ++ chunk)
  rsp_eq : rspTrace t = rspTrace s ++ List.replicate (chunk.length + 1) [0x00]
  txd_eq : txdTrace t = txdTrace s
  pending_eq : t.pending = s.pending
  ret_eq : t.ret = s.ret

theorem rxValve_rxLoop_rb (s : State) : (rxValve (rxLoop s)).rb = chunkRb s.rb := by
  rw [rxValve_rb, rxLoop_rb, chunkRb]

theorem rxValve_rxLoop_out (s : State) :
    (rxValve (rxLoop s)).out = s.out ++ (chunkEvents s.rb).map Output.evt := by
  rw [rxValve_out, rxLoop_rb, rxLoop_out, chunkEvents, List.map_append, List.append_assoc]

/-- EOC from any state (R152). -/
theorem completesWith_eoc_chunk (s : State) :
    CompletesWith .eoc s (chunkRb s.rb) ((chunkEvents s.rb).map Output.evt ++ [.rsp [0x00]]) := by
  refine ⟨_, exec_eoc s, rxValve_rxLoop_rb s, ?_, by simp, by simp⟩
  rw [respond_out, release_out, rxValve_rxLoop_out, List.append_assoc]
  rfl

/-- RXB where RB has room (R151). -/
theorem completesWith_rxb_loop {s : State} (b : Byte) (h : s.rb.length < Config.bufCap) :
    CompletesWith (.rxb b) s (loopRb (s.rb ++ [b]))
      ((loopEvents (s.rb ++ [b])).map Output.evt ++ [.rsp [0x00]]) := by
  refine ⟨_, exec_rxb_of_room h, rxLoop_rb _, ?_, by simp, by simp⟩
  rw [respond_out, rxLoop_out, List.append_assoc]
  rfl

/-- The traces after events and the response OK. -/
theorem traces_of_events_ok {s t : State} {evs : List (List Byte)}
    (h : t.out = s.out ++ (evs.map Output.evt ++ [.rsp [0x00]])) :
    evtTrace t = evtTrace s ++ evs ∧ rspTrace t = rspTrace s ++ [[0x00]] ∧ txdTrace t = txdTrace s := by
  simp only [evtTrace, rspTrace, txdTrace, h, List.filterMap_append, filterMap_evtOf_map_evt,
    filterMap_rspOf_map_evt, filterMap_txdOf_map_evt, List.nil_append]
  exact ⟨congrArg _ (List.append_nil evs), rfl, List.append_nil _⟩

theorem fedAs_nil (s : State) : ∃ t, FedAs [] s t := by
  obtain ⟨t, hexec, hrb, hout, hpending, hret⟩ := completesWith_eoc_chunk s
  obtain ⟨hevt, hrsp, htxd⟩ := traces_of_events_ok hout
  refine ⟨t, (exec_feed_nil s).trans hexec, ?_, ?_, hrsp, htxd, hpending, hret⟩
  · rw [hrb, List.append_nil]
  · rw [hevt, List.append_nil]

/-- R153: from rest, FEED byte by byte is FEED as one chunk. Each RXB's loop runs before the next byte arrives, which
changes nothing. -/
theorem fedAs_of_rest (chunk : List Byte) {s : State} (h : AtRest s.rb) : ∃ t, FedAs chunk s t := by
  induction chunk generalizing s with
  | nil => exact fedAs_nil s
  | cons b chunk ih =>
    obtain ⟨u, hexec, hrb, hout, hpending, hret⟩ := completesWith_rxb_loop b h.length_lt
    obtain ⟨hevt, hrsp, htxd⟩ := traces_of_events_ok hout
    obtain ⟨t, ht⟩ := ih (hrb ▸ atRest_loopRb _)
    obtain ⟨hresumeRb, hresumeEvents⟩ := loop_append (s.rb ++ [b]) chunk
    rw [← hrb, List.append_assoc, List.singleton_append] at hresumeRb hresumeEvents
    refine ⟨t, (exec_feed_cons hexec).trans ht.exec_eq, ?rb, ?evt, ?rsp, ht.txd_eq.trans htxd,
      ht.pending_eq.trans hpending, ht.ret_eq.trans hret⟩
    case rb => rw [ht.rb_eq, chunkRb, chunkRb, hresumeRb]
    case evt => rw [ht.evt_eq, hevt, chunkEvents, chunkEvents, hresumeRb, hresumeEvents]; simp
    case rsp =>
      rw [ht.rsp_eq, hrsp, List.append_assoc, List.length_cons, List.replicate_succ (n := chunk.length + 1)]
      rfl

/-! ### Chunks whose EOC finds little (R158) -/

/-- A loop that leaves at most 100 bytes keeps the valve shut. -/
theorem chunk_of_quiet {rb : Buffer} (h : (loopRb rb).length ≤ 100) :
    chunkRb rb = loopRb rb ∧ chunkEvents rb = loopEvents rb := by
  rw [chunkRb, chunkEvents, valveRb_of_le h, valveEvents_of_le h]
  exact ⟨rfl, List.append_nil _⟩

/-- Then a chunk boundary between RB and more bytes changes nothing. -/
theorem chunk_append_of_quiet {rb : Buffer} (h : (loopRb rb).length ≤ 100) (c : List Byte) :
    chunkRb (chunkRb rb ++ c) = chunkRb (rb ++ c) ∧
    chunkEvents rb ++ chunkEvents (chunkRb rb ++ c) = chunkEvents (rb ++ c) := by
  obtain ⟨hrb, hevents⟩ := chunk_of_quiet h
  obtain ⟨hresumeRb, hresumeEvents⟩ := loop_append rb c
  rw [hrb, hevents, chunkRb, chunkRb, chunkEvents, chunkEvents, hresumeRb, hresumeEvents, List.append_assoc]
  exact ⟨rfl, rfl⟩

theorem atRest_chunkRb (rb : Buffer) : AtRest (chunkRb rb) := by
  rw [chunkRb, ← rxLoop_rb { State.reset with rb := rb }, ← rxValve_rb]
  exact (rxValve_keeps_rest (rxLoop_atRest _)).1

theorem FedAs.atRest {chunk : List Byte} {s t : State} (h : FedAs chunk s t) : AtRest t.rb := by
  rw [h.rb_eq]
  exact atRest_chunkRb _

theorem feedAll_cons {c : List Byte} {s t : State} (h : exec (.feed c) s = .next t) (cs : List (List Byte)) :
    feedAll (c :: cs) s = feedAll cs t := by
  rw [feedAll, h]

/-- Chunks of a quiet run leave what one chunk of all their bytes leaves (R158). -/
theorem feedAll_of_quiet {c : List Byte} {cs : List (List Byte)} {s : State} (hrest : AtRest s.rb)
    (hquiet : Quiet (c :: cs) s) :
    ∃ t, feedAll (c :: cs) s = .next t ∧ t.rb = chunkRb (s.rb ++ (c :: cs).flatten) ∧
      evtTrace t = evtTrace s ++ chunkEvents (s.rb ++ (c :: cs).flatten) := by
  induction cs generalizing c s with
  | nil =>
    obtain ⟨t, ht⟩ := fedAs_of_rest c hrest
    rw [List.flatten_singleton]
    exact ⟨t, feedAll_cons ht.exec_eq [], ht.rb_eq, ht.evt_eq⟩
  | cons d cs ih =>
    obtain ⟨t, ht⟩ := fedAs_of_rest c hrest
    obtain ⟨hlen, hnext⟩ := hquiet
    rw [rxLoop_rb] at hlen
    obtain ⟨v, hv, hvrb, hvevt⟩ := ih ht.atRest (hnext t ht.exec_eq)
    obtain ⟨hchunkRb, hchunkEvents⟩ := chunk_append_of_quiet (rb := s.rb ++ c) hlen (d :: cs).flatten
    have hflatten : s.rb ++ (c :: d :: cs).flatten = s.rb ++ c ++ (d :: cs).flatten := by
      rw [List.flatten_cons, List.append_assoc]
    rw [ht.rb_eq] at hvrb hvevt
    rw [hflatten, ← hchunkRb, ← hchunkEvents, ← List.append_assoc, ← ht.evt_eq]
    exact ⟨v, (feedAll_cons ht.exec_eq _).trans hv, hvrb, hvevt⟩

/-! ### Chunks of which the loop leaves nothing, or takes nothing -/

/-- A chunk that completes what RB held, so that the loop consumes all of it. -/
theorem FedAs.of_consumed {chunk : List Byte} {s t : State} (h : FedAs chunk s t) (hrb : loopRb (s.rb ++ chunk) = []) :
    t.rb = [] ∧ evtTrace t = evtTrace s ++ loopEvents (s.rb ++ chunk) := by
  obtain ⟨hchunkRb, hchunkEvents⟩ := chunk_of_quiet (rb := s.rb ++ chunk) (by rw [hrb]; exact Nat.zero_le _)
  exact ⟨by rw [h.rb_eq, hchunkRb, hrb], by rw [h.evt_eq, hchunkEvents]⟩

/-- A chunk that leaves RB waiting, so that only the valve has something to do. -/
theorem FedAs.of_waiting {chunk : List Byte} {s t : State} (h : FedAs chunk s t) (hrest : AtRest (s.rb ++ chunk)) :
    t.rb = valveRb (s.rb ++ chunk) ∧ evtTrace t = evtTrace s ++ valveEvents (s.rb ++ chunk) := by
  rw [h.rb_eq, h.evt_eq, chunkRb, chunkEvents, loopRb_of_rest hrest, loopEvents_of_rest hrest]
  exact ⟨rfl, rfl⟩

end Sys2Proof.Machine
end

section
/-! The statements of 42_stream_decoder.md: the actions, the loop, the commands and FEED. -/

namespace Sys2Proof.Proofs
open Sys2Proof.Machine

/-- Settles O12: an idle step keeps RB, and each row a move decodes to leaves RB at rest. -/
theorem everyStepKeepsTheBufferAtRest : Obligations.EveryStepKeepsTheBufferAtRest := by
  unfold Obligations.EveryStepKeepsTheBufferAtRest
  intro s t hrest h
  cases hpending : s.pending with
  | nil =>
    obtain rfl := Host.Outcome.next.inj ((step_of_idle hpending).symm.trans h)
    exact hrest
  | cons m rest =>
    rw [step_of_pending hpending] at h
    exact atRest_exec_decodeMove (s := { s with pending := rest }) hrest h

/-! ### The selection and the actions -/

/-- Settles O33: the six conditions exclude one another and one of them holds, so each action has exactly its own; the
registers are those of the action's branch. -/
theorem selectionFollowsTheActionMap : Obligations.SelectionFollowsTheActionMap := by
  unfold Obligations.SelectionFollowsTheActionMap
  intro rb w a regs framed total headerOk payloadOk
  have htotal : frameTotal rb = total := by rw [frameTotal_eq, ← Nat.add_assoc]
  have hheaderOk (h : framed) : HeaderOk rb ↔ headerOk := by
    obtain ⟨-, hlen⟩ := h
    rw [HeaderOk, headerOf_eq_reads (by omega)]
    rfl
  have hslip : framed ∧ ¬ HeaderOk rb ↔ framed ∧ ¬ headerOk := and_congr_right fun h => not_congr (hheaderOk h)
  have hvalid (p : Prop) : framed ∧ HeaderOk rb ∧ p ↔ framed ∧ headerOk ∧ p :=
    and_congr_right fun h => and_congr_left' (hheaderOk h)
  have hselect (b : RxAction) : a = b ↔ ActionCondition rb b := rxSelect_eq_iff rb w b
  simp only [ActionCondition, htotal] at hselect
  refine ⟨hselect .discard, hselect .waitHeader, (hselect .hdrSlip).trans hslip,
    (hselect .waitPayload).trans (hvalid _), (hselect .deliver).trans (hvalid _), (hselect .dropFrame).trans (hvalid _),
    rxSelect_header_regs w, fun h hheader => ?total, fun h hheader hwhole => ?pck⟩
  case total => exact (rxSelect_total w h ((hheaderOk h).2 hheader)).trans htotal
  case pck =>
    rw [← htotal] at hwhole
    have hpck := rxSelect_pck w h ((hheaderOk h).2 hheader) hwhole
    rwa [htotal] at hpck

/-- Settles O34. -/
theorem unselectedRxActionsAreRefused : Obligations.UnselectedRxActionsAreRefused := by
  unfold Obligations.UnselectedRxActionsAreRefused
  intro s
  exact ⟨exec_rxInstr_of_not_selected, exec_rxInstr_of_not_selected, exec_rxInstr_of_not_selected,
    exec_rxInstr_of_not_selected, exec_rxInstr_of_not_selected, exec_rxInstr_of_not_selected⟩

/-- Settles O35. -/
theorem discardReportsAndDropsOneByte : Obligations.DiscardReportsAndDropsOneByte := by
  unfold Obligations.DiscardReportsAndDropsOneByte
  intro b rest s hrb hb
  have hselected : selected s = .discard := by rw [selected_eq_chosen, hrb, chosen, rxSelect_of_noise rest _ hb]
  have hturn := completesWith_rxInstr hselected
  rwa [hrb] at hturn

/-- Settles O36. -/
theorem waitHeaderChangesNothing : Obligations.WaitHeaderChangesNothing := by
  unfold Obligations.WaitHeaderChangesNothing
  intro s h
  exact completesWith_rxInstr (rxSelect_waitHeader s.wr h)

/-- Settles O37. -/
theorem headerSlipDropsOnlyTheSyncByte : Obligations.HeaderSlipDropsOnlyTheSyncByte := by
  unfold Obligations.HeaderSlipDropsOnlyTheSyncByte
  intro h1 h2 h3 h4 rx rest s hrb hne hheader
  have hselected : selected s = .hdrSlip := by rw [selected_eq_chosen, hrb, chosen, rxSelect_of_slip _ hne hheader]
  have hturn := completesWith_rxInstr hselected
  rwa [hrb] at hturn

/-- Settles O38. -/
theorem waitPayloadChangesNothing : Obligations.WaitPayloadChangesNothing := by
  unfold Obligations.WaitPayloadChangesNothing
  intro h1 h2 h3 h4 rest s hrb hne hshort
  have hselected : selected s = .waitPayload := by
    refine rxSelect_waitPayload s.wr (hrb ▸ framed_cons h1 h2 h3 h4 _ hne) (hrb ▸ rfl) ?_
    have htotal := frameTotal_cons h1 h2 h3 h4 (checksum [h1, h2, h3, h4]) rest
    rw [← hrb] at htotal
    omega
  exact completesWith_rxInstr hselected

/-- Settles O39. -/
theorem deliverEmitsThePacketAndConsumesTheFrame : Obligations.DeliverEmitsThePacketAndConsumesTheFrame := by
  unfold Obligations.DeliverEmitsThePacketAndConsumesTheFrame
  intro h1 h2 h3 h4 data opt rest s hdata hopt hrb
  have hlengths : LengthsOk h1 h2 h3 data opt := ⟨hdata, hopt⟩
  have hselected : selected s = .deliver := by
    rw [selected_eq_chosen, hrb, chosen, rxSelect_of_frame hlengths]
  have hturn := completesWith_rxInstr hselected
  rw [hrb, turnEvents_deliver_frameBytes hlengths, turnDrop, drop_frameTotal_frameBytes hlengths] at hturn
  exact hturn

/-- Settles O40. -/
theorem dropFrameReportsAndConsumesTheFrame : Obligations.DropFrameReportsAndConsumesTheFrame := by
  unfold Obligations.DropFrameReportsAndConsumesTheFrame
  intro h1 h2 h3 h4 rx data opt rest s hdata hopt hck hrb
  have hlengths : LengthsOk h1 h2 h3 data opt := ⟨hdata, hopt⟩
  have hselected : selected s = .dropFrame := by
    rw [selected_eq_chosen, hrb, chosen, rxSelect_of_badFrame hlengths hck]
  have hturn := completesWith_rxInstr hselected
  rw [hrb, turnEvents_dropFrame_frameBytes hlengths, turnDrop, drop_frameTotal_frameBytes hlengths] at hturn
  exact hturn

/-- Settles O41. -/
theorem valveFlushesMoreThanAHundredBytes : Obligations.ValveFlushesMoreThanAHundredBytes := by
  unfold Obligations.ValveFlushesMoreThanAHundredBytes
  intro s _
  have hvalve := completesWith_rxValve s
  constructor
  case left =>
    intro hlen
    rwa [valveRb_of_lt hlen, valveEvents_of_lt hlen] at hvalve
  case right =>
    intro hlen
    rwa [valveRb_of_le hlen, valveEvents_of_le hlen] at hvalve

/-- Settles O42. -/
theorem valveRunsOnAnyBuffer : Obligations.ValveRunsOnAnyBuffer := by
  unfold Obligations.ValveRunsOnAnyBuffer
  intro s
  have hvalve := completesWith_rxValve s
  rwa [valveRb, valveEvents, apply_ite (List.map Output.evt)] at hvalve

/-! ### The loop -/

/-- Settles O43, along the loop: each turn that is no stop shortens RB. -/
theorem loopEndsWithOneStopAction : Obligations.LoopEndsWithOneStopAction := by
  unfold Obligations.LoopEndsWithOneStopAction
  intro s
  induction s using rxLoop_induction with
  | stop s hstop =>
    have hlast : rxLoop s = rxTurn s := by rw [rxLoop_eq, if_pos hstop]
    exact ⟨0, Nat.zero_le _, fun j hj => absurd hj (Nat.not_lt_zero j), hstop, hlast⟩
  | turn s hturn ih =>
    obtain ⟨k, hk, hbefore, hstop, hloop⟩ := ih
    have hshorter := rxTurn_length_lt hturn
    have hnext : rxLoop s = rxLoop (rxTurn s) := by rw [rxLoop_eq, if_neg (Bool.eq_false_iff.1 hturn)]
    refine ⟨k + 1, by omega, fun j hj => ?_, hstop, hnext.trans hloop⟩
    cases j with
    | zero => exact hturn
    | succ j => exact hbefore j (Nat.lt_of_succ_lt_succ hj)

/-- Settles O44. -/
theorem restInvariantsAreEstablished : Obligations.RestInvariantsAreEstablished := by
  unfold Obligations.RestInvariantsAreEstablished
  exact ⟨rxLoop_atRest, fun _ _ _ h => atRest_rxb h, fun _ _ h => atChunkBoundary_eoc h,
    fun _ _ _ h => atChunkBoundary_feed h, fun _ _ _ _ _ h => exec_txf_rb h,
    fun input s _ h => (completesWith_cks input s).rb_eq h, .inl rfl, Nat.zero_le _⟩

/-- Settles O47. -/
theorem loopResumesAcrossAppends : Obligations.LoopResumesAcrossAppends := by
  unfold Obligations.LoopResumesAcrossAppends
  intro s c all first both
  obtain ⟨hrb, hevents⟩ := loop_append s.rb c
  constructor
  case left =>
    calc all.rb = loopRb (s.rb ++ c) := rxLoop_rb { s with rb := s.rb ++ c }
      _ = loopRb (first.rb ++ c) := by rw [hrb, ← rxLoop_rb s]
      _ = both.rb := (rxLoop_rb { first with rb := first.rb ++ c }).symm
  case right =>
    calc all.out = s.out ++ (loopEvents (s.rb ++ c)).map Output.evt := rxLoop_out { s with rb := s.rb ++ c }
      _ = first.out ++ (loopEvents (first.rb ++ c)).map Output.evt := by
        rw [hevents, List.map_append, ← List.append_assoc, ← rxLoop_rb s, ← rxLoop_out s]
      _ = both.out := (rxLoop_out { first with rb := first.rb ++ c }).symm

/-! ### The commands -/

/-- Settles O48. -/
theorem rxbAppendsAndRunsTheLoop : Obligations.RxbAppendsAndRunsTheLoop := by
  unfold Obligations.RxbAppendsAndRunsTheLoop
  intro b s hroom
  obtain ⟨t, hexec, hrb, hout, hpending, hret⟩ := completesWith_rxb_loop b hroom
  exact ⟨t, loopEvents (s.rb ++ [b]), hexec, hrb.trans (rxLoop_rb (bufAppend b s)).symm, atRest_rxb hexec,
    rxLoop_out (bufAppend b s), hout.trans (List.append_assoc ..).symm, hpending, hret,
    fun hrest => frameReports_append_byte_le hrest b⟩

/-- Settles O50. From rest the loop changes nothing, so the valve decides. -/
theorem eocRunsTheLoopAndTheValve : Obligations.EocRunsTheLoopAndTheValve := by
  unfold Obligations.EocRunsTheLoopAndTheValve
  intro s
  have heoc := completesWith_eoc_chunk s
  refine ⟨?any, fun hrest hlen => ?flush, fun hrest hlen => ?keep⟩
  case any =>
    exact ⟨_, exec_eoc s, atChunkBoundary_eoc (exec_eoc s), rfl, rfl, by simp, by simp⟩
  case flush =>
    rwa [chunkRb, chunkEvents, loopRb_of_rest hrest, loopEvents_of_rest hrest, valveRb_of_lt hlen,
      valveEvents_of_lt hlen] at heoc
  case keep =>
    rwa [chunkRb, chunkEvents, loopRb_of_rest hrest, loopEvents_of_rest hrest, valveRb_of_le hlen,
      valveEvents_of_le hlen] at heoc

/-- Settles O51. -/
theorem emptyChunkChangesNothing : Obligations.EmptyChunkChangesNothing := by
  unfold Obligations.EmptyChunkChangesNothing
  intro s ⟨hrest, hlen⟩
  obtain ⟨-, -, hkeep⟩ := eocRunsTheLoopAndTheValve s
  exact ⟨exec_feed_nil s, hkeep hrest hlen⟩

/-! ### FEED -/

/-- Settles O53. -/
theorem feedHasItsChunkLevelMeaning : Obligations.FeedHasItsChunkLevelMeaning := by
  unfold Obligations.FeedHasItsChunkLevelMeaning
  intro chunk s hrest u
  obtain ⟨t, ht⟩ := fedAs_of_rest chunk hrest
  have hurb : u.rb = chunkRb (s.rb ++ chunk) := rxValve_rxLoop_rb { s with rb := s.rb ++ chunk }
  have hevt : evtTrace u = evtTrace s ++ chunkEvents (s.rb ++ chunk) :=
    evtTrace_of_events (rxValve_rxLoop_out { s with rb := s.rb ++ chunk })
  exact ⟨t, ht.exec_eq, ht.rb_eq.trans hurb.symm, ht.evt_eq.trans hevt.symm, ht.rsp_eq, ht.txd_eq,
    ht.pending_eq, ht.ret_eq⟩

/-- Settles O54. -/
theorem chunkingIsInvisibleBelowTheWatermark : Obligations.ChunkingIsInvisibleBelowTheWatermark := by
  unfold Obligations.ChunkingIsInvisibleBelowTheWatermark
  intro chunks s hne hrest hquiet
  obtain ⟨c, cs, rfl⟩ := List.exists_cons_of_ne_nil hne
  obtain ⟨t, hfeedAll, htrb, htevt⟩ := feedAll_of_quiet hrest hquiet
  obtain ⟨u, hu⟩ := fedAs_of_rest (c :: cs).flatten hrest
  exact ⟨t, u, hfeedAll, hu.exec_eq, htrb.trans hu.rb_eq.symm, htevt.trans hu.evt_eq.symm⟩

/-- Settles O55. The first bytes of the frame wait in RB until the first EOC; the valve decides what the second chunk
meets. -/
theorem splitFrameSurvivesUpToTheWatermark : Obligations.SplitFrameSurvivesUpToTheWatermark := by
  unfold Obligations.SplitFrameSurvivesUpToTheWatermark
  intro h1 h2 h3 h4 data opt k s hdata hopt hempty f _ hk
  have hlengths : LengthsOk h1 h2 h3 data opt := ⟨hdata, hopt⟩
  have hsplit : f.take k ++ f.drop k = f := List.take_append_drop k f
  have hcount : (f.take k).length = k := List.length_take_of_le hk.le
  have htail : f.drop k ≠ [] := by rw [ne_eq, List.drop_eq_nil_iff]; exact not_le.2 hk
  have hwaits : AtRest (f.take k) :=
    ValidFrame.atRest_of_prefix (hsplit.symm ▸ validFrame_frameBytes h4 hlengths) htail
  obtain ⟨t, ht⟩ := fedAs_of_rest (f.take k) (s := s) (.inl hempty)
  obtain ⟨u, hu⟩ := fedAs_of_rest (f.drop k) ht.atRest
  have hfirst : s.rb ++ f.take k = f.take k := by rw [hempty, List.nil_append]
  obtain ⟨htrb, htevt⟩ := ht.of_waiting (hfirst.symm ▸ hwaits)
  rw [hfirst] at htrb htevt
  refine ⟨t, u, ht.exec_eq, hu.exec_eq, fun hle => ?delivered, fun hlt => ?flushed⟩
  case delivered =>
    rw [← hcount] at hle
    rw [valveRb_of_le hle] at htrb
    rw [valveEvents_of_le hle, List.append_nil] at htevt
    have hwhole : t.rb ++ f.drop k = f := by rw [htrb, hsplit]
    obtain ⟨hloopRb, hloopEvents⟩ := loop_frame h4 hlengths
    obtain ⟨hurb, huevt⟩ := hu.of_consumed (hwhole.symm ▸ hloopRb)
    rw [hwhole, hloopEvents, htevt] at huevt
    exact ⟨htrb, htevt, hurb, huevt⟩
  case flushed =>
    rw [← hcount] at hlt
    rw [valveRb_of_lt hlt] at htrb
    rw [valveEvents_of_lt hlt, hcount] at htevt
    refine ⟨htrb, htevt, fun hnoise => ?_⟩
    obtain ⟨hloopRb, hloopEvents⟩ := loop_noise_append hnoise []
    rw [List.append_nil] at hloopRb hloopEvents
    have hrest : t.rb ++ f.drop k = f.drop k := by rw [htrb, List.nil_append]
    obtain ⟨hurb, huevt⟩ := hu.of_consumed (by rw [hrest, hloopRb, loopRb_nil])
    rw [hrest, hloopEvents, loopEvents_nil, List.append_nil] at huevt
    exact ⟨hurb, huevt⟩

/-- Settles O56. -/
theorem noiseBeforeAFrameIsDiscarded : Obligations.NoiseBeforeAFrameIsDiscarded := by
  unfold Obligations.NoiseBeforeAFrameIsDiscarded
  intro noise h1 h2 h3 h4 data opt s hnoise hdata hopt hempty
  obtain ⟨hnoiseRb, hnoiseEvents⟩ :=
    loop_noise_append hnoise (frameBytes h1 h2 h3 h4 data opt (checksum (data ++ opt)))
  obtain ⟨hframeRb, hframeEvents⟩ := loop_frame h4 (h1 := h1) (h2 := h2) (h3 := h3) ⟨hdata, hopt⟩
  obtain ⟨t, ht⟩ := fedAs_of_rest
    (noise ++ frameBytes h1 h2 h3 h4 data opt (checksum (data ++ opt))) (s := s) (.inl hempty)
  have hconsumed := ht.of_consumed
  rw [hempty, List.nil_append, hnoiseRb, hnoiseEvents, hframeEvents, ← List.append_assoc] at hconsumed
  obtain ⟨htrb, htevt⟩ := hconsumed hframeRb
  exact ⟨t, ht.exec_eq, htrb, htevt⟩

/-- Settles O57. A spurious header that checks out declares more than 7 + 85 * 256 bytes, its length byte being the
frame's own sync byte. -/
theorem extraSyncByteSlipsOrSwallowsTheFrame : Obligations.ExtraSyncByteSlipsOrSwallowsTheFrame := by
  unfold Obligations.ExtraSyncByteSlipsOrSwallowsTheFrame
  intro h1 h2 h3 h4 data opt s hdata hopt hempty f
  obtain ⟨t, ht⟩ := fedAs_of_rest (0x55 :: f) (s := s) (.inl hempty)
  have hall : s.rb ++ 0x55 :: f = 0x55 :: f := by rw [hempty, List.nil_append]
  let body : List Byte := checksum [h1, h2, h3, h4] :: (data ++ opt ++ [checksum (data ++ opt)])
  have hne : body ≠ [] := List.cons_ne_nil _ _
  refine ⟨t, ht.exec_eq, fun hslip => ?slips, fun hcollision hshort => ?swallows⟩
  case slips =>
    obtain ⟨hslipRb, hslipEvents⟩ := loop_slip hne hslip
    obtain ⟨hframeRb, hframeEvents⟩ := loop_frame h4 (h1 := h1) (h2 := h2) (h3 := h3) ⟨hdata, hopt⟩
    obtain ⟨htrb, htevt⟩ := ht.of_consumed (by rw [hall]; exact hslipRb.trans hframeRb)
    refine ⟨htrb, htevt.trans ?_⟩
    rw [hall]
    exact congrArg (evtTrace s ++ ·) (hslipEvents.trans (congrArg _ hframeEvents))
  case swallows =>
    have hlen : (0x55 :: f).length ≤ 100 := hshort
    have htotal : frameTotal (0x55 :: f) = 7 + (85 * 256 + h1.toNat) + h2.toNat :=
      frameTotal_cons 0x55 h1 h2 h3 h4 body
    have hwaits : AtRest (0x55 :: f) :=
      (atRest_iff_head? _).2 (.inr ⟨rfl, .inr ⟨hcollision, by omega⟩⟩)
    obtain ⟨htrb, htevt⟩ := ht.of_waiting (hall.symm ▸ hwaits)
    rw [hall, valveRb_of_le hlen] at htrb
    rw [hall, valveEvents_of_le hlen, List.append_nil] at htevt
    exact ⟨htrb, htevt⟩

end Sys2Proof.Proofs
end

section
/-! How an instruction ends is a function of RB and its operands: the working registers, the earlier outputs and the
pending moves have no part in it (60_exceptions.md R188, 10_state.md R24). -/

namespace Sys2Proof.Machine

/-- `i` run from `s` ends so: it completes with the given RB, having appended the given outputs, or it stops for the
given reason. -/
def EndsIn (i : Instr) (s : State) : Host.Outcome (Buffer × List Output) Fault Refusal → Prop
  | .next (rb, outs) => ∃ t, exec i s = .next t ∧ t.rb = rb ∧ t.out = s.out ++ outs
  | .fault r => exec i s = .fault r
  | .refused r => exec i s = .refused r

/-- Each RB has one ending of `i`, in which every state that holds this RB ends. -/
def RbDecidesEnding (i : Instr) : Prop := ∀ rb, ∃ e, ∀ s : State, s.rb = rb → EndsIn i s e

theorem CompletesWith.endsIn {i : Instr} {s : State} {rb : Buffer} {outs : List Output}
    (h : CompletesWith i s rb outs) : EndsIn i s (.next (rb, outs)) := by
  obtain ⟨t, hexec, hrb, hout, -⟩ := h
  exact ⟨t, hexec, hrb, hout⟩

/-- An instruction that completes from every state, with an RB and outputs computed from RB alone. -/
theorem rbDecidesEnding_of_completesWith {i : Instr} (rb' : Buffer → Buffer) (outs : Buffer → List Output)
    (h : ∀ s : State, CompletesWith i s (rb' s.rb) (outs s.rb)) : RbDecidesEnding i := by
  intro rb
  refine ⟨.next (rb' rb, outs rb), ?_⟩
  rintro s rfl
  exact (h s).endsIn

/-- An instruction that completes from every state with RB as it was and outputs computed from its operands alone. -/
theorem rbDecidesEnding_of_rb_kept {i : Instr} {outs : List Output} (h : ∀ s : State, CompletesWith i s s.rb outs) :
    RbDecidesEnding i := rbDecidesEnding_of_completesWith id (fun _ => outs) h

/-- RXB completes where its append finds room and faults elsewhere, and the room is RB's (R53, R151). -/
theorem rbDecidesEnding_rxb (b : Byte) : RbDecidesEnding (.rxb b) := by
  intro rb
  by_cases hroom : rb.length < Config.bufCap
  · refine ⟨.next (loopRb (rb ++ [b]), (loopEvents (rb ++ [b])).map Output.evt ++ [.rsp [0x00]]), ?_⟩
    rintro s rfl
    exact (completesWith_rxb_loop b hroom).endsIn
  · refine ⟨.fault .bufferFull, ?_⟩
    rintro s rfl
    exact exec_rxb_of_full (not_lt.1 hroom)

theorem rbDecidesEnding_eoc : RbDecidesEnding .eoc :=
  rbDecidesEnding_of_completesWith chunkRb (fun rb => (chunkEvents rb).map Output.evt ++ [.rsp [0x00]])
    completesWith_eoc_chunk

/-- The range test of TXF is on its operands (R122, R123). -/
theorem rbDecidesEnding_txf (ty : PType) (data opt : List Byte) : RbDecidesEnding (.txf ty data opt) := by
  by_cases hrange : data.length ≤ Config.maxData ∧ opt.length ≤ Config.maxOpt
  · exact rbDecidesEnding_of_rb_kept fun s => completesWith_txf_of_inRange s hrange
  · exact rbDecidesEnding_of_rb_kept fun s => completesWith_txf_of_tooLong s hrange

/-- The validity test of DECODE is on its operand (R126). -/
theorem rbDecidesEnding_decode (f : List Byte) : RbDecidesEnding (.decode f) := by
  intro rb
  by_cases hvalid : ValidFrame f
  · exact ⟨.next (rb, []), fun s hrb => ⟨_, exec_decode_of_valid hvalid, hrb, (List.append_nil _).symm⟩⟩
  · exact ⟨.refused .notAValidFrame, fun _ _ => exec_decode_of_not_valid hvalid⟩

/-- An ending with more outputs in front of its own; a stop has none. -/
def outputsBefore (outs : List Output) :
    Host.Outcome (Buffer × List Output) Fault Refusal → Host.Outcome (Buffer × List Output) Fault Refusal
  | .next (rb, outs') => .next (rb, outs ++ outs')
  | .fault r => .fault r
  | .refused r => .refused r

/-- An instruction that goes on as `j` from a later state, with `outs` emitted on the way, ends as `j` does there. -/
theorem EndsIn.of_exec_eq {i j : Instr} {s t : State} {outs : List Output}
    {e : Host.Outcome (Buffer × List Output) Fault Refusal} (h : EndsIn j t e) (hexec : exec i s = exec j t)
    (hout : t.out = s.out ++ outs) : EndsIn i s (outputsBefore outs e) := by
  cases e with
  | next p =>
    obtain ⟨u, hu, hrb, hout'⟩ := h
    exact ⟨u, hexec.trans hu, hrb, by rw [hout', hout, List.append_assoc]⟩
  | fault r => exact hexec.trans h
  | refused r => exact hexec.trans h

/-- FEED, along its expansion: RB decides how the first RXB ends, and the RB it leaves decides the rest (R87). -/
theorem rbDecidesEnding_feed (chunk : List Byte) : RbDecidesEnding (.feed chunk) := by
  induction chunk with
  | nil => exact rbDecidesEnding_eoc
  | cons b chunk ih =>
    intro rb
    by_cases hroom : rb.length < Config.bufCap
    · obtain ⟨e, he⟩ := ih (loopRb (rb ++ [b]))
      refine ⟨outputsBefore ((loopEvents (rb ++ [b])).map Output.evt ++ [.rsp [0x00]]) e, ?_⟩
      rintro s rfl
      obtain ⟨t, hexec, hrb, hout, -⟩ := completesWith_rxb_loop b hroom
      exact (he t hrb).of_exec_eq (exec_feed_cons hexec) hout
    · refine ⟨.fault .bufferFull, ?_⟩
      rintro s rfl
      exact exec_feed_cons_of_fault (exec_rxb_of_full (not_lt.1 hroom))

/-- Whether RX_SELECT picks the action is decided by RB, and so is what its turn does (R142; log entry 9). -/
theorem rbDecidesEnding_rxInstr (a : RxAction) : RbDecidesEnding (rxInstr a) := by
  intro rb
  by_cases hchosen : chosen rb = a
  · refine ⟨.next (rb.drop (turnDrop rb a), (turnEvents rb a).map Output.evt), ?_⟩
    rintro s rfl
    exact (completesWith_rxInstr ((selected_eq_chosen s).trans hchosen)).endsIn
  · refine ⟨.refused .actionNotSelected, ?_⟩
    rintro s rfl
    exact exec_rxInstr_of_not_selected (ne_of_eq_of_ne (selected_eq_chosen s) hchosen)

theorem rbDecidesEnding (i : Instr) : RbDecidesEnding i := by
  cases i with
  | rxb b => exact rbDecidesEnding_rxb b
  | eoc => exact rbDecidesEnding_eoc
  | txf ty data opt => exact rbDecidesEnding_txf ty data opt
  | cks input => exact rbDecidesEnding_of_rb_kept (completesWith_cks input)
  | reserved bytes => exact rbDecidesEnding_of_rb_kept (completesWith_reserved bytes)
  | rst => exact fun _ => ⟨.next ([], []), fun s _ => ⟨_, exec_rst s, rfl, (List.append_nil _).symm⟩⟩
  | feed chunk => exact rbDecidesEnding_feed chunk
  | checksum input =>
    exact fun rb => ⟨.next (rb, []), fun s hrb => ⟨_, exec_checksum input s, hrb, (List.append_nil _).symm⟩⟩
  | decode f => exact rbDecidesEnding_decode f
  | rxDiscard => exact rbDecidesEnding_rxInstr .discard
  | rxWaitHeader => exact rbDecidesEnding_rxInstr .waitHeader
  | rxHdrSlip => exact rbDecidesEnding_rxInstr .hdrSlip
  | rxWaitPayload => exact rbDecidesEnding_rxInstr .waitPayload
  | rxDeliver => exact rbDecidesEnding_rxInstr .deliver
  | rxDropFrame => exact rbDecidesEnding_rxInstr .dropFrame
  | rxValve =>
    exact rbDecidesEnding_of_completesWith valveRb (fun rb => (valveEvents rb).map Output.evt) completesWith_rxValve

end Sys2Proof.Machine
end

section
/-! The statements of 60_exceptions.md: what an instruction depends on, progress from rest, the idle step. -/

namespace Sys2Proof.Proofs
open Sys2Proof.Machine

/-- Settles O15: both states end as their common RB decides. -/
theorem onlyTheBufferCarriesHistory : Obligations.OnlyTheBufferCarriesHistory := by
  unfold Obligations.OnlyTheBufferCarriesHistory
  intro i s s' hrb
  obtain ⟨e, he⟩ := rbDecidesEnding i s'.rb
  have hs := he s hrb
  have hs' := he s' rfl
  cases e with
  | next p =>
    obtain ⟨t, hexec, ht, hout⟩ := hs
    obtain ⟨t', hexec', ht', hout'⟩ := hs'
    exact .inl ⟨t, t', _, hexec, hexec', ht.trans ht'.symm, hout, hout'⟩
  | fault r => exact .inr (.inl ⟨r, hs, hs'⟩)
  | refused r => exact .inr (.inr ⟨r, hs, hs'⟩)

/-- Settles O11: an idle step holds the state, and every command completes from rest. -/
theorem noStepStopsFromRest : Obligations.NoStepStopsFromRest := by
  unfold Obligations.NoStepStopsFromRest
  intro s hrest
  cases hpending : s.pending with
  | nil => exact ⟨s, step_of_idle hpending⟩
  | cons m rest =>
    obtain ⟨t, hstep, -⟩ := eachCommandEmitsOneResponseLast s m rest hrest hpending
    exact ⟨t, hstep⟩

/-- Settles O9. -/
theorem idleBlockHoldsItsState : Obligations.IdleBlockHoldsItsState := by
  unfold Obligations.IdleBlockHoldsItsState
  intro s hpending
  exact step_of_idle hpending

end Sys2Proof.Proofs
end

section
/-! The statements of 70_reset_and_hazards.md: the state at power-on and the reset input. -/

namespace Sys2Proof.Machine

/-- With no byte held the block is seeking (R26), the phase at reset (R211). -/
theorem phase_nil : phase [] = .seeking := if_pos rfl

/-- An empty RB meets both invariants of a chunk boundary (R22). -/
theorem atChunkBoundary_nil : AtChunkBoundary [] := ⟨.inl rfl, Nat.zero_le _⟩

end Sys2Proof.Machine

namespace Sys2Proof.Proofs
open Sys2Proof.Machine

/-- Settles O16: RB is empty at reset, and the empty RB decides the phase and the invariants. -/
theorem powerOnStateIsEmptyAndSilent : Obligations.PowerOnStateIsEmptyAndSilent := by
  unfold Obligations.PowerOnStateIsEmptyAndSilent
  exact ⟨rfl, rfl, phase_nil, atChunkBoundary_nil⟩

/-- Settles O17: of RB, the outputs and the pending moves, RST changes what BufClear changes. -/
theorem resetInputEmptiesTheBuffer : Obligations.ResetInputEmptiesTheBuffer := by
  unfold Obligations.ResetInputEmptiesTheBuffer
  intro s
  exact ⟨_, exec_rst s, bufClear_rb s, bufClear_out s, bufClear_pending s⟩

end Sys2Proof.Proofs
end
